-- ==== Sys2Proof/Word.lean ====
section
/-! DEFINITION. The word types of the machine: bytes, 16-bit words, 4-bit fields, 12-bit addresses (00_scope.md R7, R8). -/

namespace Sys2Proof

/-- An 8-bit value: a general register, a memory cell, an immediate `kk` (R20, R60). -/
abbrev Byte := BitVec 8

/-- A 16-bit value: `pc`, `I`, a stack entry, an instruction word (R23, R24, R26, R90). -/
abbrev Word := BitVec 16

/-- A 4-bit field of an instruction word, and the code of a key (R91, R200). -/
abbrev Nibble := BitVec 4

/-- The index of a general register: always a 4-bit field, so none is out of range (R20). -/
abbrev Reg := BitVec 4

/-- A 12-bit immediate address `nnn` (R91). -/
abbrev Imm12 := BitVec 12

end Sys2Proof
end

