-- ==== Sys2Proof/Config.lean ====
section
/-! DEFINITION. What the implementation fixes (00_scope.md R5), the events of the environment (10_state.md R40), and the free
value: the events and inputs the spec puts under no law (41_alu.md R141, 60_exceptions.md R199, R200 and R202). -/

namespace Sys2Proof

/-- The implementation parameters of 00_scope.md R5, as one record. -/
structure Params where
  /-- `N`, the number of byte cells of memory -/
  memSize : Nat
  /-- `W`, framebuffer columns -/
  fbWidth : Nat
  /-- `H`, framebuffer rows -/
  fbHeight : Nat
  /-- return-address stack entries -/
  stackDepth : Nat
  /-- general registers -/
  numRegs : Nat
  /-- `pc` after reset, and the program's load address -/
  resetPc : Nat
  /-- memory address of glyph 0 -/
  fontBase : Nat
  /-- bytes per font glyph -/
  glyphStride : Nat
  /-- timer ticks per second; the core sees ticks as events, not time -/
  tickHz : Nat
deriving DecidableEq, Repr

/-- The events that change the state (R37, R40). A STEP carries the inputs it samples. -/
inductive Event where
  | step (key : Option Nibble) (rand : Byte)
  | tick
  | reset
deriving DecidableEq, Repr, Inhabited

namespace Config

/-- `N` = 4096 (R5, the spec's D1). UNVERIFIED, unsafe for a platform with a larger memory: log 1. -/
abbrev memSize : Nat := 4096

/-- `W` = 64 (R5, the spec's D2). UNVERIFIED, unsafe: log 1. -/
abbrev fbWidth : Nat := 64

/-- `H` = 32 (R5, the spec's D2). UNVERIFIED, unsafe: log 1. -/
abbrev fbHeight : Nat := 32

/-- `STACK_DEPTH` = 16 (R5, from the source). -/
abbrev stackDepth : Nat := 16

/-- `NREG` = 16 (R5, from the source). -/
abbrev numRegs : Nat := 16

/-- `RESET_PC` = 0x200 (R5, from the source). -/
abbrev resetPc : Nat := 0x200

/-- `FONT_BASE` = 0x000 (R5, the spec's D3). UNVERIFIED, unsafe: log 1. -/
abbrev fontBase : Nat := 0x000

/-- `GLYPH_STRIDE` = 5 (R5, from the source). -/
abbrev glyphStride : Nat := 5

/-- `TICK_HZ` = 60 (R5, from the source). No rule of the core depends on it. -/
abbrev tickHz : Nat := 60

/-- This hardware: the column "this hardware" of R5. -/
def hardware : Params where
  memSize := memSize
  fbWidth := fbWidth
  fbHeight := fbHeight
  stackDepth := stackDepth
  numRegs := numRegs
  resetPc := resetPc
  fontBase := fontBase
  glyphStride := glyphStride
  tickHz := tickHz

/-- FREE VALUE: the n-th event that the schedule does not give, with its inputs where it is a STEP. Any interleaving of TICK and
STEP, without end, is one of its possible values (R199), RESET may fall anywhere (R213), and KEY and RAND are under no law
(R141, R200, R202). Safe: log 6. -/
opaque freeEvent : Nat → Event

end Config

end Sys2Proof
end

