-- ==== Sys2Proof/Syntax.lean ====
section
/-! DEFINITION. The instructions (30_encoding.md R95): one constructor for each row of spec/opcode_table.json, in the table's
order, with the fields its format has (R91, R92); and the memory image a loader places before the run (R214). -/

namespace Sys2Proof

/-- The 32 instructions of R95. `x`, `y` are register indices, `kk` an immediate byte, `nnn` an immediate address, `n` a row
count (R91). -/
inductive Instr where
  /-- `00E0` CLS (R160) -/
  | cls
  /-- `00EE` RET (R121) -/
  | ret
  /-- `1nnn` JP nnn (R122) -/
  | jp (nnn : Imm12)
  /-- `2nnn` CALL nnn (R123) -/
  | call (nnn : Imm12)
  /-- `3xkk` SE Vx, kk (R124) -/
  | seImm (x : Reg) (kk : Byte)
  /-- `4xkk` SNE Vx, kk (R125) -/
  | sneImm (x : Reg) (kk : Byte)
  /-- `5xy0` SE Vx, Vy (R126) -/
  | seReg (x y : Reg)
  /-- `6xkk` LD Vx, kk (R130) -/
  | ldImm (x : Reg) (kk : Byte)
  /-- `7xkk` ADD Vx, kk (R131) -/
  | addImm (x : Reg) (kk : Byte)
  /-- `8xy0` LD Vx, Vy (R132) -/
  | ldReg (x y : Reg)
  /-- `8xy1` OR Vx, Vy (R133) -/
  | orReg (x y : Reg)
  /-- `8xy2` AND Vx, Vy (R134) -/
  | andReg (x y : Reg)
  /-- `8xy3` XOR Vx, Vy (R135) -/
  | xorReg (x y : Reg)
  /-- `8xy4` ADD Vx, Vy (R136) -/
  | addReg (x y : Reg)
  /-- `8xy5` SUB Vx, Vy (R137) -/
  | subReg (x y : Reg)
  /-- `8xy6` SHR Vx (R138); `y` is part of the pattern and not used (R98) -/
  | shr (x y : Reg)
  /-- `8xy7` SUBN Vx, Vy (R139) -/
  | subnReg (x y : Reg)
  /-- `8xyE` SHL Vx (R140); `y` is part of the pattern and not used (R98) -/
  | shl (x y : Reg)
  /-- `9xy0` SNE Vx, Vy (R127) -/
  | sneReg (x y : Reg)
  /-- `Annn` LD I, nnn (R150) -/
  | ldI (nnn : Imm12)
  /-- `Bnnn` JP V0, nnn (R128) -/
  | jpV0 (nnn : Imm12)
  /-- `Cxkk` RND Vx, kk (R141) -/
  | rnd (x : Reg) (kk : Byte)
  /-- `Dxyn` DRW Vx, Vy, n (R162) -/
  | drw (x y : Reg) (n : Nibble)
  /-- `Fx07` LD Vx, DT (R170) -/
  | ldVxDt (x : Reg)
  /-- `Fx0A` LD Vx, K (R171) -/
  | ldVxK (x : Reg)
  /-- `Fx15` LD DT, Vx (R172) -/
  | ldDtVx (x : Reg)
  /-- `Fx18` LD ST, Vx (R173) -/
  | ldStVx (x : Reg)
  /-- `Fx1E` ADD I, Vx (R151) -/
  | addI (x : Reg)
  /-- `Fx29` LD F, Vx (R152) -/
  | ldF (x : Reg)
  /-- `Fx33` LD B, Vx (R153) -/
  | ldB (x : Reg)
  /-- `Fx55` LD [I], Vx (R154) -/
  | stRegs (x : Reg)
  /-- `Fx65` LD Vx, [I] (R155) -/
  | ldRegs (x : Reg)
deriving DecidableEq, Repr

/-- What the loader places in memory before the first STEP (R214): the program's bytes, from the entry point on, and the font
table's bytes, from `FONT_BASE` on (none where the program does not use `Fx29`). -/
structure Image where
  program : List Byte
  font : List Byte
deriving DecidableEq, Repr

end Sys2Proof
end

