-- ==== Sys2Proof/WellFormed.lean ====
section
/-! DEFINITION. What is well-formed: the parameters (00_scope.md R6), the memory image a loader may place
(70_reset_and_hazards.md R214), the assembler's form of an instruction (30_encoding.md R101). -/

namespace Sys2Proof

/-- The constraints between parameters that the rules rely on (R6), and the constants the source fixes (R5). -/
def Params.wf (p : Params) : Bool :=
  decide (4096 ≤ p.memSize) && decide (p.memSize ≤ 65536)
    && decide (8 ≤ p.fbWidth) && decide (15 ≤ p.fbHeight)
    && decide (p.fontBase + 16 * p.glyphStride ≤ 0x200)
    && p.stackDepth == 16 && p.numRegs == 16 && p.resetPc == 0x200 && p.glyphStride == 5 && p.tickHz == 60

/-- The loader's duty (R214, R66): the program fits between the entry point 0x200 and 0xFFF, the font table is absent or has 16
glyphs of 5 bytes. -/
def Image.wf (img : Image) : Bool :=
  decide (Config.resetPc + img.program.length ≤ 0x1000)
    && (img.font.isEmpty || img.font.length == 16 * Config.glyphStride)

/-- Well-formed instructions. A register index is always a 4-bit field, so no index is out of range (R20), and every value of
`kk`, `nnn` and `n` is an operand (R93): the types of the fields ARE the ranges, and every term of `Instr` is well-formed. -/
def Instr.wf : Instr → Bool
  | .cls | .ret => true
  | .jp nnn | .call nnn | .ldI nnn | .jpV0 nnn => decide (nnn.toNat < 4096)
  | .seImm x kk | .sneImm x kk | .ldImm x kk | .addImm x kk | .rnd x kk => decide (x.toNat < 16) && decide (kk.toNat < 256)
  | .seReg x y | .ldReg x y | .orReg x y | .andReg x y | .xorReg x y | .addReg x y | .subReg x y | .shr x y | .subnReg x y
  | .shl x y | .sneReg x y => decide (x.toNat < 16) && decide (y.toNat < 16)
  | .drw x y n => decide (x.toNat < 16) && decide (y.toNat < 16) && decide (n.toNat < 16)
  | .ldVxDt x | .ldVxK x | .ldDtVx x | .ldStVx x | .addI x | .ldF x | .ldB x | .stRegs x | .ldRegs x => decide (x.toNat < 16)

/-- The form the assembler's convention emits: `SHR Vx` and `SHL Vx` assemble with y = 0 (R101). The other forms of the two are
instructions all the same (R98), so this is NOT a condition of well-formedness. -/
def Instr.assemblerForm : Instr → Bool
  | .shr _ y | .shl _ y => y == 0
  | .cls | .ret | .jp _ | .call _ | .seImm _ _ | .sneImm _ _ | .seReg _ _ | .ldImm _ _ | .addImm _ _ | .ldReg _ _
  | .orReg _ _ | .andReg _ _ | .xorReg _ _ | .addReg _ _ | .subReg _ _ | .subnReg _ _ | .sneReg _ _ | .ldI _ | .jpV0 _
  | .rnd _ _ | .drw _ _ _ | .ldVxDt _ | .ldVxK _ | .ldDtVx _ | .ldStVx _ | .addI _ | .ldF _ | .ldB _ | .stRegs _
  | .ldRegs _ => true

end Sys2Proof
end

