-- ==== Sys2Proof/Decode.lean ====
section
/-! DEFINITION. Decoding (30_encoding.md R90 to R97) and encoding. The decoder is the exhaustive match over the group and the
subfields that R94 describes; beside it stands the opcode map of R95 as a list of masks and matches, and the encoder written
from the formats of R92. -/

namespace Sys2Proof

/-- Why the decoder gives no instruction. -/
inductive Reject where
  /-- fewer than the two bytes of an instruction (R90) -/
  | truncated
  /-- a word that matches none of the 32 patterns (R96, R97); the step then runs R96's no-op with the decode warning -/
  | undefinedOpcode (w : Word)
deriving DecidableEq, Repr

/-- What the decoder answers. -/
inductive Decoded where
  | instr (i : Instr)
  | rejected (r : Reject)
deriving DecidableEq, Repr

/-- Field `g`, bits 15..12 (R91). -/
def fieldG (w : Word) : Nibble := w.extractLsb' 12 4

/-- Field `x`, bits 11..8 (R91). -/
def fieldX (w : Word) : Reg := w.extractLsb' 8 4

/-- Field `y`, bits 7..4 (R91). -/
def fieldY (w : Word) : Reg := w.extractLsb' 4 4

/-- Field `n`, bits 3..0 (R91). -/
def fieldN (w : Word) : Nibble := w.extractLsb' 0 4

/-- Field `kk`, bits 7..0 (R91). -/
def fieldKk (w : Word) : Byte := w.extractLsb' 0 8

/-- Field `nnn`, bits 11..0 (R91). -/
def fieldNnn (w : Word) : Imm12 := w.extractLsb' 0 12

/-- Group 8, selected by the low nibble (R95 rows 10 to 18). -/
def decodeGroup8 (w : Word) : Decoded :=
  match (fieldN w).toNat with
  | 0x0 => .instr (.ldReg (fieldX w) (fieldY w))
  | 0x1 => .instr (.orReg (fieldX w) (fieldY w))
  | 0x2 => .instr (.andReg (fieldX w) (fieldY w))
  | 0x3 => .instr (.xorReg (fieldX w) (fieldY w))
  | 0x4 => .instr (.addReg (fieldX w) (fieldY w))
  | 0x5 => .instr (.subReg (fieldX w) (fieldY w))
  | 0x6 => .instr (.shr (fieldX w) (fieldY w))
  | 0x7 => .instr (.subnReg (fieldX w) (fieldY w))
  | 0xE => .instr (.shl (fieldX w) (fieldY w))
  | _ => .rejected (.undefinedOpcode w)

/-- Group F, selected by the low byte (R95 rows 24 to 32). -/
def decodeGroupF (w : Word) : Decoded :=
  match (fieldKk w).toNat with
  | 0x07 => .instr (.ldVxDt (fieldX w))
  | 0x0A => .instr (.ldVxK (fieldX w))
  | 0x15 => .instr (.ldDtVx (fieldX w))
  | 0x18 => .instr (.ldStVx (fieldX w))
  | 0x1E => .instr (.addI (fieldX w))
  | 0x29 => .instr (.ldF (fieldX w))
  | 0x33 => .instr (.ldB (fieldX w))
  | 0x55 => .instr (.stRegs (fieldX w))
  | 0x65 => .instr (.ldRegs (fieldX w))
  | _ => .rejected (.undefinedOpcode w)

/-- The decoder of one instruction word (R94, R95): total, and a word of no pattern is rejected by name. -/
def decode (w : Word) : Decoded :=
  match (fieldG w).toNat with
  | 0x0 =>
    if w = 0x00E0#16 then .instr .cls
    else if w = 0x00EE#16 then .instr .ret
    else .rejected (.undefinedOpcode w)
  | 0x1 => .instr (.jp (fieldNnn w))
  | 0x2 => .instr (.call (fieldNnn w))
  | 0x3 => .instr (.seImm (fieldX w) (fieldKk w))
  | 0x4 => .instr (.sneImm (fieldX w) (fieldKk w))
  | 0x5 => if fieldN w = 0x0#4 then .instr (.seReg (fieldX w) (fieldY w)) else .rejected (.undefinedOpcode w)
  | 0x6 => .instr (.ldImm (fieldX w) (fieldKk w))
  | 0x7 => .instr (.addImm (fieldX w) (fieldKk w))
  | 0x8 => decodeGroup8 w
  | 0x9 => if fieldN w = 0x0#4 then .instr (.sneReg (fieldX w) (fieldY w)) else .rejected (.undefinedOpcode w)
  | 0xA => .instr (.ldI (fieldNnn w))
  | 0xB => .instr (.jpV0 (fieldNnn w))
  | 0xC => .instr (.rnd (fieldX w) (fieldKk w))
  | 0xD => .instr (.drw (fieldX w) (fieldY w) (fieldN w))
  | 0xF => decodeGroupF w
  | _ => .rejected (.undefinedOpcode w)

/-- The big-endian word of two bytes, high byte first (R62, R90). -/
def wordOfBytes (hi lo : Byte) : Word := hi ++ lo

/-- The high byte of a word: `g`:`x` (R91). -/
def highByte (w : Word) : Byte := w.extractLsb' 8 8

/-- The low byte of a word: `y`:`n` = `kk` (R91). -/
def lowByte (w : Word) : Byte := w.extractLsb' 0 8

/-- The decoder over bytes in memory order: the instruction and the bytes after it, or the reason there is none. Every
instruction is two bytes long (R90). -/
def decodeBytes : List Byte → Decoded × List Byte
  | hi :: lo :: rest => (decode (wordOfBytes hi lo), rest)
  | rest => (.rejected .truncated, rest)

/-- Format XYS and XYN: four nibbles, the group first (R92). -/
def nibbles (g x y n : Nibble) : Word := g ++ x ++ y ++ n

/-- Format XKK and XSS: group, register, byte (R92). -/
def groupXKk (g : Nibble) (x : Reg) (kk : Byte) : Word := g ++ x ++ kk

/-- Format NNN: group, address (R92). -/
def groupNnn (g : Nibble) (nnn : Imm12) : Word := g ++ nnn

/-- The encoder: the word of an instruction, from the patterns and formats of R92 and R95. -/
def encode : Instr → Word
  | .cls => 0x00E0#16
  | .ret => 0x00EE#16
  | .jp nnn => groupNnn 0x1#4 nnn
  | .call nnn => groupNnn 0x2#4 nnn
  | .seImm x kk => groupXKk 0x3#4 x kk
  | .sneImm x kk => groupXKk 0x4#4 x kk
  | .seReg x y => nibbles 0x5#4 x y 0x0#4
  | .ldImm x kk => groupXKk 0x6#4 x kk
  | .addImm x kk => groupXKk 0x7#4 x kk
  | .ldReg x y => nibbles 0x8#4 x y 0x0#4
  | .orReg x y => nibbles 0x8#4 x y 0x1#4
  | .andReg x y => nibbles 0x8#4 x y 0x2#4
  | .xorReg x y => nibbles 0x8#4 x y 0x3#4
  | .addReg x y => nibbles 0x8#4 x y 0x4#4
  | .subReg x y => nibbles 0x8#4 x y 0x5#4
  | .shr x y => nibbles 0x8#4 x y 0x6#4
  | .subnReg x y => nibbles 0x8#4 x y 0x7#4
  | .shl x y => nibbles 0x8#4 x y 0xE#4
  | .sneReg x y => nibbles 0x9#4 x y 0x0#4
  | .ldI nnn => groupNnn 0xA#4 nnn
  | .jpV0 nnn => groupNnn 0xB#4 nnn
  | .rnd x kk => groupXKk 0xC#4 x kk
  | .drw x y n => nibbles 0xD#4 x y n
  | .ldVxDt x => groupXKk 0xF#4 x 0x07#8
  | .ldVxK x => groupXKk 0xF#4 x 0x0A#8
  | .ldDtVx x => groupXKk 0xF#4 x 0x15#8
  | .ldStVx x => groupXKk 0xF#4 x 0x18#8
  | .addI x => groupXKk 0xF#4 x 0x1E#8
  | .ldF x => groupXKk 0xF#4 x 0x29#8
  | .ldB x => groupXKk 0xF#4 x 0x33#8
  | .stRegs x => groupXKk 0xF#4 x 0x55#8
  | .ldRegs x => groupXKk 0xF#4 x 0x65#8

/-- The bytes of an instruction in memory order, high byte first (R62). -/
def encodeBytes (i : Instr) : List Byte := [highByte (encode i), lowByte (encode i)]

/-- The mask of an instruction's row in the opcode map (R95). -/
def Instr.mask : Instr → Word
  | .cls | .ret => 0xFFFF#16
  | .jp _ | .call _ | .seImm _ _ | .sneImm _ _ | .ldImm _ _ | .addImm _ _ | .ldI _ | .jpV0 _ | .rnd _ _ | .drw _ _ _ => 0xF000#16
  | .seReg _ _ | .ldReg _ _ | .orReg _ _ | .andReg _ _ | .xorReg _ _ | .addReg _ _ | .subReg _ _ | .shr _ _ | .subnReg _ _
  | .shl _ _ | .sneReg _ _ => 0xF00F#16
  | .ldVxDt _ | .ldVxK _ | .ldDtVx _ | .ldStVx _ | .addI _ | .ldF _ | .ldB _ | .stRegs _ | .ldRegs _ => 0xF0FF#16

/-- The match value of an instruction's row in the opcode map (R95). -/
def Instr.matchValue : Instr → Word
  | .cls => 0x00E0#16
  | .ret => 0x00EE#16
  | .jp _ => 0x1000#16
  | .call _ => 0x2000#16
  | .seImm _ _ => 0x3000#16
  | .sneImm _ _ => 0x4000#16
  | .seReg _ _ => 0x5000#16
  | .ldImm _ _ => 0x6000#16
  | .addImm _ _ => 0x7000#16
  | .ldReg _ _ => 0x8000#16
  | .orReg _ _ => 0x8001#16
  | .andReg _ _ => 0x8002#16
  | .xorReg _ _ => 0x8003#16
  | .addReg _ _ => 0x8004#16
  | .subReg _ _ => 0x8005#16
  | .shr _ _ => 0x8006#16
  | .subnReg _ _ => 0x8007#16
  | .shl _ _ => 0x800E#16
  | .sneReg _ _ => 0x9000#16
  | .ldI _ => 0xA000#16
  | .jpV0 _ => 0xB000#16
  | .rnd _ _ => 0xC000#16
  | .drw _ _ _ => 0xD000#16
  | .ldVxDt _ => 0xF007#16
  | .ldVxK _ => 0xF00A#16
  | .ldDtVx _ => 0xF015#16
  | .ldStVx _ => 0xF018#16
  | .addI _ => 0xF01E#16
  | .ldF _ => 0xF029#16
  | .ldB _ => 0xF033#16
  | .stRegs _ => 0xF055#16
  | .ldRegs _ => 0xF065#16

/-- The masks and matches of the opcode map, rows 1 to 16 (R95). -/
def opcodeMapLow : List (Word × Word) :=
  [(0xFFFF, 0x00E0), (0xFFFF, 0x00EE), (0xF000, 0x1000), (0xF000, 0x2000), (0xF000, 0x3000), (0xF000, 0x4000),
   (0xF00F, 0x5000), (0xF000, 0x6000), (0xF000, 0x7000), (0xF00F, 0x8000), (0xF00F, 0x8001), (0xF00F, 0x8002),
   (0xF00F, 0x8003), (0xF00F, 0x8004), (0xF00F, 0x8005), (0xF00F, 0x8006)]

/-- The masks and matches of the opcode map, rows 17 to 32 (R95). -/
def opcodeMapHigh : List (Word × Word) :=
  [(0xF00F, 0x8007), (0xF00F, 0x800E), (0xF00F, 0x9000), (0xF000, 0xA000), (0xF000, 0xB000), (0xF000, 0xC000),
   (0xF000, 0xD000), (0xF0FF, 0xF007), (0xF0FF, 0xF00A), (0xF0FF, 0xF015), (0xF0FF, 0xF018), (0xF0FF, 0xF01E),
   (0xF0FF, 0xF029), (0xF0FF, 0xF033), (0xF0FF, 0xF055), (0xF0FF, 0xF065)]

/-- The opcode map's (mask, match) pairs in the order of R95. -/
def opcodeMap : List (Word × Word) := opcodeMapLow ++ opcodeMapHigh

/-- The bytes, in memory order, of an instruction whose bits are `w` numbered as spec/opcode_table.json numbers them (bit 0 the
least significant bit of the first word), every bit above `nbits` 0: one 16-bit word, high byte first (R62, R90). -/
def tableBytes (nbits w : Nat) : List Byte :=
  let word : Word := BitVec.ofNat 16 (w % 2 ^ nbits)
  [highByte word, lowByte word]

/-- The instruction the decoder reads from a word of the opcode table. -/
def decodeTableWord (nbits w : Nat) : Option Instr :=
  match decodeBytes (tableBytes nbits w) with
  | (.instr i, _) => some i
  | (.rejected _, _) => none

end Sys2Proof
end

