-- ==== Sys2Proof/Machine/State.lean ====
section
/-! DEFINITION. The state of the machine (10_state.md R20 to R39), the state after reset (R43, R210), and the reasons a step
can stop. -/

namespace Sys2Proof.Machine

/-- `MODE` (R29, R31). The spec's code 3 is never reached and has no constructor: log 13. -/
inductive Mode where
  | running
  | awaitKey
  | halted
deriving DecidableEq, Repr

/-- `FCAUSE` (R29, R181). -/
inductive Cause where
  | none
  | fetchOob
  | dataOob
  | stackOverflow
  | stackUnderflow
deriving DecidableEq, Repr

/-- `REQ`, the request a STEP returns (R38). -/
inductive Request where
  | none
  | clearScreen
  | draw
  | awaitKey
deriving DecidableEq, Repr

/-- `MEM` (R33, R60): the cells whose value differs from what an unwritten cell reads as, by rising address. -/
abbrev Memory := List Host.Cell

/-- `FB` (R32): rows of columns, one Bool a pixel. -/
abbrev Framebuffer := Vector (Vector Bool Config.fbWidth) Config.fbHeight

/-- The state. INVENTORY.md lists each field with the rule that names it. -/
structure State where
  /-- `V[0..15]` (R20); `VF` is `V[15]` (R21) -/
  v : Vector Byte Config.numRegs
  /-- `I` (R24) -/
  i : Word
  /-- `pc` (R23) -/
  pc : Word
  /-- `SP` (R25) -/
  sp : Byte
  /-- `STACK[0..15]` (R26) -/
  stack : Vector Word Config.stackDepth
  /-- `DT` (R27) -/
  dt : Byte
  /-- `ST` (R28) -/
  st : Byte
  /-- `MODE` (R29) -/
  mode : Mode
  /-- `KREG` (R29) -/
  kreg : Reg
  /-- `FCAUSE` (R29) -/
  fcause : Cause
  /-- `FADDR` (R29) -/
  faddr : BitVec 17
  /-- `FB` (R32) -/
  fb : Framebuffer
  /-- `MEM` (R33) -/
  mem : Memory
  /-- input `KEY` as presented to the last STEP (R37): log 5 -/
  key : Option Nibble
  /-- input `RAND` as presented to the last STEP (R37): log 5 -/
  rand : Byte
  /-- output `REQ` of the last STEP (R38): log 8 -/
  req : Request
  /-- output `WARN` of the last STEP, with its word (R38): log 8 -/
  warn : Option Word
  /-- the events the environment issues next, oldest first, before the free ones (R36, R40): the model's own, log 7 -/
  events : List Event
  /-- how many free events have been taken: the model's own, log 6 -/
  draws : Nat
deriving DecidableEq, Repr

/-- The reasons a step stops. The spec's four fatal faults are NOT here: they are next states with `MODE` = HALTED (R190). -/
inductive Fault where
  /-- Raised by `2nnn` and `00EE` when `SP` is above 16, so that the stack slot they name does not exist. The spec gives no
  effect there and says that only 0..16 is ever reached (R25). Safe: log 10. -/
  | stackSlotAbsent
deriving DecidableEq, Repr

/-- The reasons a step is refused. -/
inductive Refusal where
  /-- Raised by no arm now: every instruction of the table has its meaning. It would be raised by `exec` for an instruction not
  modelled yet, and is safe. -/
  | notModelled (mnemonic : String)
deriving DecidableEq, Repr

/-- What a step or a meaning answers. -/
abbrev Result := Host.Outcome State Fault Refusal

/-- The machine right after reset (R43, R210, R211): memory as at machine creation, nothing listed (R212, log 4); `STACK` and
`KREG`, which the spec leaves unspecified, at zero (log 3); the ports and the model's own fields as log 5 to log 8 name them. -/
def State.reset : State where
  v := Vector.replicate Config.numRegs 0
  i := 0
  pc := BitVec.ofNat 16 Config.resetPc
  sp := 0
  stack := Vector.replicate Config.stackDepth 0
  dt := 0
  st := 0
  mode := .running
  kreg := 0
  fcause := .none
  faddr := 0
  fb := Vector.replicate Config.fbHeight (Vector.replicate Config.fbWidth false)
  mem := []
  key := none
  rand := 0
  req := .none
  warn := none
  events := []
  draws := 0

end Sys2Proof.Machine
end

