-- ==== Sys2Proof/Machine/Ops.lean ====
section
/-! DEFINITION. The named operations over registers, memory, the stack and the framebuffer, taking a fault (the one shared
exception entry, 60_exceptions.md R190), the RESET and TICK events, and the outputs (00_scope.md R9, 10_state.md R37 to R39). -/

namespace Sys2Proof.Machine

/-! ### Registers -/

/-- `V[x]` read (R9, R20). -/
def State.getV (s : State) (x : Reg) : Byte := s.v[x.toNat]'x.isLt

/-- `V[x] <- b` (R9, R20). -/
def State.setV (s : State) (x : Reg) (b : Byte) : State := { s with v := s.v.set x.toNat b x.isLt }

/-- `VF` as a register index (R21). -/
def vf : Reg := 0xF#4

/-- `pc <- t` (R9). -/
def State.setPc (s : State) (t : Word) : State := { s with pc := t }

/-- `next` = (pc + 2) mod 65536 (R9, R23). -/
def State.nextPc (s : State) : Word := s.pc + 2#16

/-- `skip` = (pc + 4) mod 65536 (R9, R23). -/
def State.skipPc (s : State) : Word := s.pc + 4#16

/-- `pc <- next`, the default last action (R9). -/
def State.advance (s : State) : State := s.setPc s.nextPc

/-- The conditional skip (R120 d). -/
def State.skipIf (s : State) (c : Bool) : State := s.setPc (if c then s.skipPc else s.nextPc)

/-! ### Memory -/

/-- What a cell that nothing has written reads as. The spec leaves it unspecified (R212). DESIGN CHOICE, unsafe: log 4. -/
def unwrittenByte : Byte := 0x00#8

/-- `MemRead(a, 1)` (R9): the byte of cell `a`. -/
def Memory.read : Memory → Nat → Byte
  | [], _ => unwrittenByte
  | (k, v) :: rest, a => if k = a then v else Memory.read rest a

/-- `MemWrite(a, 1, b)` (R9), keeping the canonical form: addresses rising, no entry equal to what an unwritten cell reads. -/
def Memory.write : Memory → Nat → Byte → Memory
  | [], a, b => if b = unwrittenByte then [] else [(a, b)]
  | (k, v) :: rest, a, b =>
    if a < k then (if b = unwrittenByte then (k, v) :: rest else (a, b) :: (k, v) :: rest)
    else if k = a then (if b = unwrittenByte then rest else (a, b) :: rest)
    else (k, v) :: Memory.write rest a b

/-- Every entry lies above `lo` and below `hi`, addresses rise strictly, and no entry equals what an unwritten cell reads. -/
def Memory.wfFrom (hi : Nat) : Nat → Memory → Bool
  | _, [] => true
  | lo, (k, v) :: rest => decide (lo ≤ k) && decide (k < hi) && !(v == unwrittenByte) && Memory.wfFrom hi (k + 1) rest

/-- The canonical form of memory (R60: addresses 0 to N-1). -/
def Memory.wf (m : Memory) : Bool := Memory.wfFrom Config.memSize 0 m

/-- `MemWrite` of consecutive bytes in ascending address order (R71). -/
def Memory.writeBytes (m : Memory) (a : Nat) : List Byte → Memory
  | [] => m
  | b :: bs => Memory.writeBytes (Memory.write m a b) (a + 1) bs

/-- `MemRead` of `count` consecutive bytes in ascending address order (R71). -/
def Memory.readBytes (m : Memory) (a : Nat) : Nat → List Byte
  | 0 => []
  | count + 1 => Memory.read m a :: Memory.readBytes m (a + 1) count

/-- `MemRead(a, 2)`, used by instruction fetch only (R62). -/
def Memory.readWord (m : Memory) (a : Nat) : Word := wordOfBytes (Memory.read m a) (Memory.read m (a + 1))

/-- One byte of the machine's memory. -/
def State.readByte (s : State) (a : Nat) : Byte := Memory.read s.mem a

/-- The instruction word at `pc` (R62). -/
def State.fetchWord (s : State) : Word := Memory.readWord s.mem s.pc.toNat

/-- The fetch condition: `pc < N - 1` (R62, R182). -/
def State.fetchable (s : State) : Bool := decide (s.pc.toNat < Config.memSize - 1)

/-! ### Faults: taking one is this one operation -/

/-- `raise Fault(cause, addr)` (R9, R190): `MODE`, `FCAUSE`, `FADDR` and no other state; REQ none, WARN not asserted. -/
def State.enterHalt (s : State) (cause : Cause) (addr : Nat) : State :=
  { s with mode := .halted, fcause := cause, faddr := BitVec.ofNat 17 addr, req := .none, warn := none }

/-- Taking a fault: the machine goes on in `MODE` = HALTED (R190, R191). -/
def raiseFault (cause : Cause) (addr : Nat) (s : State) : Result := .next (s.enterHalt cause addr)

/-- The condition of `CheckRange(a, count)` (R70): some byte of a range that is not empty lies outside memory. The sum does not
wrap (R69). -/
def outOfRange (a count : Nat) : Bool := decide (0 < count) && decide (Config.memSize ≤ a + count - 1)

/-- `CheckRange(a, count)` before the effect `k` of a memory instruction (R70). -/
def checkRange (a count : Nat) (s : State) (k : State) : Result :=
  if outOfRange a count then raiseFault .dataOob (max a Config.memSize) s else .next k

/-! ### The return-address stack (R26, R121, R123) -/

/-- Push: `STACK[SP] <- w ; SP <- SP + 1`, for a slot that exists. -/
def State.push (s : State) (w : Word) (h : s.sp.toNat < Config.stackDepth) : State :=
  { s with stack := s.stack.set s.sp.toNat w h, sp := s.sp + 1#8 }

/-- Pop: `SP <- SP - 1`, the popped entry is the slot of the new `SP`. -/
def State.pop (s : State) : State := { s with sp := s.sp - 1#8 }

/-! ### The framebuffer (R32, R161) -/

/-- The row a vertical coordinate lands on: modulo `H` (R161). -/
def rowOf (k : Nat) : Fin Config.fbHeight := ⟨k % Config.fbHeight, Nat.mod_lt _ (by decide)⟩

/-- The column a horizontal coordinate lands on: modulo `W` (R161). -/
def colOf (k : Nat) : Fin Config.fbWidth := ⟨k % Config.fbWidth, Nat.mod_lt _ (by decide)⟩

/-- `FB[r][c]`. -/
def Framebuffer.pixel (fb : Framebuffer) (r : Fin Config.fbHeight) (c : Fin Config.fbWidth) : Bool := (fb[r.val]'r.isLt)[c.val]'c.isLt

/-- `FB[r][c] <- b`. -/
def Framebuffer.setPixel (fb : Framebuffer) (r : Fin Config.fbHeight) (c : Fin Config.fbWidth) (b : Bool) : Framebuffer :=
  fb.set r.val ((fb[r.val]'r.isLt).set c.val b c.isLt) r.isLt

/-- Every pixel 0 (R160). -/
def Framebuffer.blank : Framebuffer := Vector.replicate Config.fbHeight (Vector.replicate Config.fbWidth false)

/-! ### Events other than STEP, and the inputs of a STEP (R40) -/

/-- One timer tick of one counter: toward zero, never below (R194). -/
def countDown (b : Byte) : Byte := if b = 0#8 then 0#8 else b - 1#8

/-- The TICK event (R194), in any `MODE` (R197). -/
def State.tick (s : State) : State := { s with dt := countDown s.dt, st := countDown s.st }

/-- `tick(k)`: k TICK events (R195). -/
def State.ticks (s : State) : Nat → State
  | 0 => s
  | k + 1 => State.ticks s.tick k

/-- The RESET event (R210, R213): every element at its reset value, memory untouched (R212); the environment's schedule is not
the machine's and stays: log 14. It is the one way out of HALTED (R191). -/
def State.resetEvent (s : State) : State := { State.reset with mem := s.mem, events := s.events, draws := s.draws }

/-- The event that happens next: the schedule's first, or, where the schedule is empty, a free one (R199, R213): log 6, log 7. -/
def State.nextEvent (s : State) : Event :=
  match s.events with
  | e :: _ => e
  | [] => Config.freeEvent s.draws

/-- The schedule, or the count of free events, after the next event is taken. -/
def State.takeEvent (s : State) : State :=
  match s.events with
  | _ :: rest => { s with events := rest }
  | [] => { s with draws := s.draws + 1 }

/-- The first line of a STEP (R41): the inputs are sampled, `REQ <- none`, WARN not asserted. -/
def State.beginStep (s : State) (key : Option Nibble) (rand : Byte) : State :=
  { s with key := key, rand := rand, req := .none, warn := none }

/-! ### Outputs that are functions of the state (R39) -/

/-- `BUZZER` (R39, R196). -/
def State.buzzer (s : State) : Bool := !(s.st == 0#8)

/-- `PENDING`: the register a key is awaited for, while one is (R39). -/
def State.pending (s : State) : Option Reg := if s.mode = .awaitKey then some s.kreg else none

/-- `FAULT`: cause and address, while halted (R39). -/
def State.faultOut (s : State) : Option (Cause × BitVec 17) := if s.mode = .halted then some (s.fcause, s.faddr) else none

/-- The framebuffer read port (R39). -/
def State.readPort (s : State) (r : Fin Config.fbHeight) (c : Fin Config.fbWidth) : Bool := s.fb.pixel r c

/-- The code of `MODE` (R29, the spec's D21). -/
def Mode.code : Mode → BitVec 2
  | .running => 0
  | .awaitKey => 1
  | .halted => 2

/-- The code of `FCAUSE` (R181, the spec's D17). -/
def Cause.code : Cause → BitVec 3
  | .none => 0
  | .fetchOob => 1
  | .dataOob => 2
  | .stackOverflow => 3
  | .stackUnderflow => 4

/-- The code of `REQ` (R38, the spec's D21). -/
def Request.code : Request → BitVec 2
  | .none => 0
  | .clearScreen => 1
  | .draw => 2
  | .awaitKey => 3

/-! ### The memory load port (R37, R214) -/

/-- The loader's work before the run: program at the entry point, font table at `FONT_BASE`. No step of the machine does this
(R77): log 12. -/
def State.load (s : State) (img : Image) : State :=
  { s with mem := Memory.writeBytes (Memory.writeBytes s.mem Config.fontBase img.font) Config.resetPc img.program }

end Sys2Proof.Machine
end

