-- ==== Sys2Proof/Machine/Operands.lean ====
section
/-! DEFINITION. The operand forms (30_encoding.md R93) and the one addressing mode, base `I` plus a constant offset
(20_memory.md R69, 42_index_memory.md R156). -/

namespace Sys2Proof.Machine

/-- `zext_16(nnn)`: a byte address, not scaled (R93). -/
def addrOfNnn (nnn : Imm12) : Word := nnn.setWidth 16

/-- `zext_16(V[x])` (R93). -/
def State.getV16 (s : State) (x : Reg) : Word := (s.getV x).setWidth 16

/-- `zext_8` of a key's code (R93). -/
def byteOfKey (k : Nibble) : Byte := k.setWidth 8

/-- The effective address of the `k`-th byte of a data access: `I + k`, not wrapped (R69). -/
def State.effAddr (s : State) (k : Nat) : Nat := s.i.toNat + k

/-- The registers `V[0]` to `V[x]`, in order: the implicit operands of `Fx55` (R154). -/
def State.regsThrough (s : State) (x : Reg) : List Byte := s.v.toList.take (x.toNat + 1)

/-- `V[k], V[k+1], ... <- bytes`: the implicit destinations of `Fx65` (R155). -/
def putRegs (v : Vector Byte Config.numRegs) (k : Nat) : List Byte → Vector Byte Config.numRegs
  | [] => v
  | b :: bs => putRegs (v.setIfInBounds k b) (k + 1) bs

/-- The three decimal digits of a byte, hundreds first, each digit a value 0..9 (R153). -/
def bcdDigits (b : Byte) : List Byte :=
  [BitVec.ofNat 8 (b.toNat / 100), BitVec.ofNat 8 (b.toNat / 10 % 10), BitVec.ofNat 8 (b.toNat % 10)]

/-- The address of the glyph of a digit: the low four bits select it (R152, the spec's D11: log 16). -/
def glyphAddr (b : Byte) : Word := BitVec.ofNat 16 (Config.fontBase + Config.glyphStride * (b &&& 0x0F#8).toNat)

end Sys2Proof.Machine
end

