-- ==== Sys2Proof/Machine/Flags.lean ====
section
/-! DEFINITION. The values the six flag-writing instructions put in `VF` (10_state.md R21), and the write of a result and its
flag, the flag last (00_scope.md R10). -/

namespace Sys2Proof.Machine

/-- A flag in `VF`: exactly 0x00 or 0x01, all eight bits (R143). -/
def flagByte (c : Bool) : Byte := if c then 0x01#8 else 0x00#8

/-- Carry out of an 8-bit sum: the true sum exceeds 255 (R136). -/
def carryFlag (a b : Byte) : Byte := flagByte (decide (255 < a.toNat + b.toNat))

/-- The strict greater-than of the minuend over the subtrahend (R137, R139): equal operands give 0. -/
def greaterFlag (minuend subtrahend : Byte) : Byte := flagByte (decide (subtrahend.toNat < minuend.toNat))

/-- The bit a right shift moves out (R138). -/
def shiftedOutLow (a : Byte) : Byte := a &&& 0x01#8

/-- The bit a left shift moves out (R140). -/
def shiftedOutHigh (a : Byte) : Byte := (a &&& 0x80#8) >>> 7

/-- `V[x] <- result`, then `VF <- flag` as the last write, then `pc <- next` (R10). -/
def State.writeFlagged (s : State) (x : Reg) (result flag : Byte) : State := ((s.setV x result).setV vf flag).advance

/-- `V[x] <- result`, then `pc <- next`; no flag (R22). -/
def State.writePlain (s : State) (x : Reg) (result : Byte) : State := (s.setV x result).advance

end Sys2Proof.Machine
end

