-- ==== Sys2Proof/Machine/Alu.lean ====
section
/-! DEFINITION. The meanings of the register load, arithmetic, logic, shift and random instructions (41_alu.md). -/

namespace Sys2Proof.Machine

/-- `6xkk` LD Vx, kk (R130). -/
def execLdImm (x : Reg) (kk : Byte) (s : State) : Result := .next (s.writePlain x kk)

/-- `7xkk` ADD Vx, kk: modulo 256, no flag (R131). -/
def execAddImm (x : Reg) (kk : Byte) (s : State) : Result := .next (s.writePlain x (s.getV x + kk))

/-- `8xy0` LD Vx, Vy (R132). -/
def execLdReg (x y : Reg) (s : State) : Result := .next (s.writePlain x (s.getV y))

/-- `8xy1` OR Vx, Vy: `VF` is not touched (R133). -/
def execOrReg (x y : Reg) (s : State) : Result := .next (s.writePlain x (s.getV x ||| s.getV y))

/-- `8xy2` AND Vx, Vy: `VF` is not touched (R134). -/
def execAndReg (x y : Reg) (s : State) : Result := .next (s.writePlain x (s.getV x &&& s.getV y))

/-- `8xy3` XOR Vx, Vy: `VF` is not touched (R135). -/
def execXorReg (x y : Reg) (s : State) : Result := .next (s.writePlain x (s.getV x ^^^ s.getV y))

/-- `8xy4` ADD Vx, Vy with carry out (R136). -/
def execAddReg (x y : Reg) (s : State) : Result :=
  .next (s.writeFlagged x (s.getV x + s.getV y) (carryFlag (s.getV x) (s.getV y)))

/-- `8xy5` SUB Vx, Vy (R137). -/
def execSubReg (x y : Reg) (s : State) : Result :=
  .next (s.writeFlagged x (s.getV x - s.getV y) (greaterFlag (s.getV x) (s.getV y)))

/-- `8xy6` SHR Vx: `V[y]` is not read (R138, R98). -/
def execShr (x _y : Reg) (s : State) : Result := .next (s.writeFlagged x (s.getV x >>> 1) (shiftedOutLow (s.getV x)))

/-- `8xy7` SUBN Vx, Vy (R139). -/
def execSubnReg (x y : Reg) (s : State) : Result :=
  .next (s.writeFlagged x (s.getV y - s.getV x) (greaterFlag (s.getV y) (s.getV x)))

/-- `8xyE` SHL Vx: `V[y]` is not read (R140, R98). -/
def execShl (x _y : Reg) (s : State) : Result := .next (s.writeFlagged x (s.getV x <<< 1) (shiftedOutHigh (s.getV x)))

/-- `Cxkk` RND Vx, kk: the random input of this STEP, ANDed (R141). -/
def execRnd (x : Reg) (kk : Byte) (s : State) : Result := .next (s.writePlain x (s.rand &&& kk))

end Sys2Proof.Machine
end

