-- ==== Sys2Proof/Machine/Display.lean ====
section
/-! DEFINITION. The display instructions and the sprite-drawing unit (43_display.md). -/

namespace Sys2Proof.Machine

/-- What the drawing unit carries through its loops (R162): the framebuffer and the collision flag. -/
structure DrawState where
  fb : Framebuffer
  collision : Bool
deriving DecidableEq, Repr

/-- One sprite bit XORed into one pixel, against the pixel's value at this moment (R162 a, e). -/
def DrawState.plot (d : DrawState) (r : Fin Config.fbHeight) (c : Fin Config.fbWidth) (bit : Bool) : DrawState :=
  { fb := d.fb.setPixel r c (d.fb.pixel r c ^^ bit), collision := d.collision || (d.fb.pixel r c && bit) }

/-- Sprite bit `j` of a row's byte, most significant first (R161). -/
def spriteBit (row : Byte) (j : Nat) : Bool := row.getLsbD (7 - j)

/-- The first `count` bits of a row's byte, ascending (R162). -/
def drawBits (row : Byte) (y x : Nat) (d : DrawState) : Nat → DrawState
  | 0 => d
  | count + 1 => (drawBits row y x d count).plot (rowOf y) (colOf (x + count)) (spriteBit row count)

/-- The first `count` rows of the sprite at `a`, ascending (R162). -/
def drawRows (m : Memory) (a y x : Nat) (d : DrawState) : Nat → DrawState
  | 0 => d
  | count + 1 => drawBits (Memory.read m (a + count)) (y + count) x (drawRows m a y x d count) 8

/-- A whole draw: `n` rows of eight pixels at (`x`, `y`), the collision flag starting at 0 (R162). -/
def drawSprite (fb : Framebuffer) (m : Memory) (a y x n : Nat) : DrawState :=
  drawRows m a y x { fb := fb, collision := false } n

/-- `00E0` CLS (R160): `VF` is not written. -/
def execCls (s : State) : Result := .next { s with fb := Framebuffer.blank, req := .clearScreen }.advance

/-- `Dxyn` DRW Vx, Vy, n (R162): the coordinates are read before any write, `VF` is written last, always. -/
def execDrw (x y : Reg) (n : Nibble) (s : State) : Result :=
  let d := drawSprite s.fb s.mem (s.effAddr 0) (s.getV y).toNat (s.getV x).toNat n.toNat
  checkRange (s.effAddr 0) n.toNat s (({ s with fb := d.fb, req := .draw }.setV vf (flagByte d.collision)).advance)

end Sys2Proof.Machine
end

