-- ==== Sys2Proof/Machine/Flow.lean ====
section
/-! DEFINITION. The meanings of the control-transfer instructions (40_flow.md). No target is checked when the transfer
executes (R120 c). -/

namespace Sys2Proof.Machine

/-- `00EE` RET (R121): the popped value is the call's own address, so 2 is added. -/
def execRet (s : State) : Result :=
  if s.sp = 0#8 then raiseFault .stackUnderflow s.pc.toNat s
  else if h : s.pop.sp.toNat < Config.stackDepth then .next (s.pop.setPc (s.stack[s.pop.sp.toNat]'h + 2#16))
  else .fault .stackSlotAbsent

/-- `1nnn` JP nnn (R122). -/
def execJp (nnn : Imm12) (s : State) : Result := .next (s.setPc (addrOfNnn nnn))

/-- `2nnn` CALL nnn (R123): the call's own address is pushed. -/
def execCall (nnn : Imm12) (s : State) : Result :=
  if s.sp = 16#8 then raiseFault .stackOverflow s.pc.toNat s
  else if h : s.sp.toNat < Config.stackDepth then .next ((s.push s.pc h).setPc (addrOfNnn nnn))
  else .fault .stackSlotAbsent

/-- `3xkk` SE Vx, kk (R124). -/
def execSeImm (x : Reg) (kk : Byte) (s : State) : Result := .next (s.skipIf (s.getV x == kk))

/-- `4xkk` SNE Vx, kk (R125). -/
def execSneImm (x : Reg) (kk : Byte) (s : State) : Result := .next (s.skipIf (!(s.getV x == kk)))

/-- `5xy0` SE Vx, Vy (R126). -/
def execSeReg (x y : Reg) (s : State) : Result := .next (s.skipIf (s.getV x == s.getV y))

/-- `9xy0` SNE Vx, Vy (R127). -/
def execSneReg (x y : Reg) (s : State) : Result := .next (s.skipIf (!(s.getV x == s.getV y)))

/-- `Bnnn` JP V0, nnn (R128): not reduced to 12 bits. -/
def execJpV0 (nnn : Imm12) (s : State) : Result := .next (s.setPc (s.getV16 0x0#4 + addrOfNnn nnn))

end Sys2Proof.Machine
end

