-- ==== Sys2Proof/Machine/IndexMemory.lean ====
section
/-! DEFINITION. The meanings of the address-register and memory instructions (42_index_memory.md). None moves `I` by a memory
access (R156). -/

namespace Sys2Proof.Machine

/-- `Annn` LD I, nnn (R150). -/
def execLdI (nnn : Imm12) (s : State) : Result := .next { s with i := addrOfNnn nnn }.advance

/-- `Fx1E` ADD I, Vx: modulo 65536, no flag (R151). -/
def execAddI (x : Reg) (s : State) : Result := .next { s with i := s.i + s.getV16 x }.advance

/-- `Fx29` LD F, Vx (R152). -/
def execLdF (x : Reg) (s : State) : Result := .next { s with i := glyphAddr (s.getV x) }.advance

/-- `Fx33` LD B, Vx (R153). -/
def execLdB (x : Reg) (s : State) : Result :=
  checkRange (s.effAddr 0) 3 s { s with mem := Memory.writeBytes s.mem (s.effAddr 0) (bcdDigits (s.getV x)) }.advance

/-- `Fx55` LD [I], Vx (R154). -/
def execStRegs (x : Reg) (s : State) : Result :=
  checkRange (s.effAddr 0) (x.toNat + 1) s { s with mem := Memory.writeBytes s.mem (s.effAddr 0) (s.regsThrough x) }.advance

/-- `Fx65` LD Vx, [I]: every byte is read before a register is written (R155, R71). -/
def execLdRegs (x : Reg) (s : State) : Result :=
  checkRange (s.effAddr 0) (x.toNat + 1) s
    { s with v := putRegs s.v 0 (Memory.readBytes s.mem (s.effAddr 0) (x.toNat + 1)) }.advance

end Sys2Proof.Machine
end

