-- ==== Sys2Proof/Machine/TimerKey.lean ====
section
/-! DEFINITION. The meanings of the timer and key-wait instructions, and the continued key wait (44_timer_key.md). -/

namespace Sys2Proof.Machine

/-- `Fx07` LD Vx, DT (R170). -/
def execLdVxDt (x : Reg) (s : State) : Result := .next (s.writePlain x s.dt)

/-- `Fx0A` LD Vx, K in the step that fetched it (R171): a key present completes it at once, else the wait begins and `pc` stays. -/
def execLdVxK (x : Reg) (s : State) : Result :=
  .next (match s.key with
    | some k => s.writePlain x (byteOfKey k)
    | none => { s with mode := .awaitKey, kreg := x, req := .awaitKey })

/-- A STEP in AWAIT_KEY mode (R171, R41): no fetch; a key completes the pending `Fx0A`. -/
def State.continueKeyWait (s : State) : State :=
  match s.key with
  | some k => { s.writePlain s.kreg (byteOfKey k) with mode := .running }
  | none => { s with req := .awaitKey }

/-- `Fx15` LD DT, Vx (R172). -/
def execLdDtVx (x : Reg) (s : State) : Result := .next { s with dt := s.getV x }.advance

/-- `Fx18` LD ST, Vx (R173). -/
def execLdStVx (x : Reg) (s : State) : Result := .next { s with st := s.getV x }.advance

end Sys2Proof.Machine
end

