-- ==== Sys2Proof/Machine/Engine.lean ====
section
/-! DEFINITION. The STEP event (10_state.md R41) and the placing of a word where the next STEP fetches. -/

namespace Sys2Proof.Machine

/-- The undefined-opcode rule (R96, R186): a two-byte no-op that asserts WARN with the word. -/
def execUndef (w : Word) (s : State) : State := { s with warn := some w }.advance

/-- A STEP in RUNNING mode (R41): the fetch check, then the one instruction, or R96. -/
def runInstruction (s : State) : Result :=
  if s.fetchable then
    match decode s.fetchWord with
    | .instr i => exec i s
    | .rejected _ => .next (execUndef s.fetchWord s)
  else raiseFault .fetchOob s.pc.toNat s

/-- A STEP once its inputs are sampled, by `MODE` (R41). -/
def engineStep (s : State) : Result :=
  match s.mode with
  | .halted => .next s
  | .awaitKey => .next s.continueKeyWait
  | .running => runInstruction s

/-- One event (R40). -/
def handleEvent (e : Event) (s : State) : Result :=
  match e with
  | .step key rand => engineStep (s.beginStep key rand)
  | .tick => .next s.tick
  | .reset => .next s.resetEvent

/-- Where the next STEP fetches: `pc`, or the entry point where nothing can be fetched at `pc` (R182). -/
def State.fetchPlace (s : State) : Word := if s.fetchable then s.pc else BitVec.ofNat 16 Config.resetPc

/-- `s` made ready to fetch and run the bytes `bs` in its very next step: the bytes at the place of fetch, RUNNING mode, and a
STEP event, with the levels the ports show, as the next event: log 12. -/
def State.placeBytes (s : State) (bs : List Byte) : State :=
  { s with
    mem := Memory.writeBytes s.mem s.fetchPlace.toNat bs
    pc := s.fetchPlace
    mode := .running
    events := .step s.key s.rand :: s.events }

end Sys2Proof.Machine
end

