-- ==== Sys2Proof/Machine/Step.lean ====
section
/-! DEFINITION. One step of the machine: the next event of the schedule, whole (10_state.md R40, R41). -/

namespace Sys2Proof.Machine

/-- One step: the next event happens (R40). -/
def step (s : State) : Host.Outcome State Fault Refusal := handleEvent s.nextEvent s.takeEvent

/-- `s` with an instruction's bits stored where `step` fetches its next instruction: log 12. -/
def State.withFetchWord (s : State) (nbits w : Nat) : State := s.placeBytes (tableBytes nbits w)

end Sys2Proof.Machine
end

