-- ==== Sys2Proof/Safety.lean ====
section
/-! DEFINITION. The terms claims use: which elements a step changes (frames), which registers an instruction names as
destinations, what a fault, a finished run and a safe run are, and the invariants of the machine. -/

namespace Sys2Proof.Machine

/-! ### Frames -/

/-- The fields of State, as names. -/
inductive Field where
  | v | i | pc | sp | stack | dt | st | mode | kreg | fcause | faddr | fb | mem | key | rand | req | warn | events | draws
deriving DecidableEq, Repr

/-- A field holds the same in two states. For memory: the same cells, and so every byte reads the same. -/
def State.sameField (s t : State) : Field → Prop
  | .v => t.v = s.v
  | .i => t.i = s.i
  | .pc => t.pc = s.pc
  | .sp => t.sp = s.sp
  | .stack => t.stack = s.stack
  | .dt => t.dt = s.dt
  | .st => t.st = s.st
  | .mode => t.mode = s.mode
  | .kreg => t.kreg = s.kreg
  | .fcause => t.fcause = s.fcause
  | .faddr => t.faddr = s.faddr
  | .fb => t.fb = s.fb
  | .mem => t.mem = s.mem ∧ ∀ a, t.readByte a = s.readByte a
  | .key => t.key = s.key
  | .rand => t.rand = s.rand
  | .req => t.req = s.req
  | .warn => t.warn = s.warn
  | .events => t.events = s.events
  | .draws => t.draws = s.draws

/-- From `s` to `t` no field changes but those listed. -/
def State.OnlyChanges (s t : State) (fs : List Field) : Prop := ∀ f, f ∉ fs → s.sameField t f

/-- The fields that hold the ports and the model's bookkeeping of inputs: everything a STEP may write besides the spec's state. -/
def ports : List Field := [.key, .rand, .req, .warn, .events, .draws]

/-- `t` is `s` halted by a fault: `MODE`, `FCAUSE`, `FADDR` written, REQ none, WARN not asserted, nothing else changed (R190). -/
def State.HaltsAs (s t : State) (cause : Cause) (addr : Nat) : Prop :=
  t.mode = .halted ∧ t.fcause = cause ∧ t.faddr.toNat = addr ∧ t.req = .none ∧ t.warn = none
    ∧ s.OnlyChanges t [.mode, .fcause, .faddr, .req, .warn]

/-- A function of the next state, applied where there is one. -/
def mapNext (f : State → State) : Result → Result
  | .next t => .next (f t)
  | .fault r => .fault r
  | .refused r => .refused r

/-- The values RESET gives (R43, R210): every element but memory and the two the spec leaves unspecified. -/
def State.HasResetValues (s : State) : Prop :=
  (∀ j, s.getV j = 0x00#8) ∧ s.pc = 0x0200#16 ∧ s.i = 0x0000#16 ∧ s.sp = 0#8 ∧ s.dt = 0#8 ∧ s.st = 0#8 ∧ s.mode = .running
    ∧ s.fcause = .none ∧ s.faddr = 0#17 ∧ ∀ r c, s.readPort r c = false

/-- Pixel (`r`, `c`) is one a draw of `n` rows at (`V[x]`, `V[y]`) toggles: some set sprite bit (i, j) lands on it (R161, R163). -/
def State.Toggles (s : State) (x y : Reg) (n : Nibble) (r : Fin Config.fbHeight) (c : Fin Config.fbWidth) : Prop :=
  ∃ i j : Nat, i < n.toNat ∧ j < 8 ∧ (s.readByte (s.effAddr i)).getLsbD (7 - j) = true
    ∧ ((s.getV y).toNat + i) % Config.fbHeight = r.val ∧ ((s.getV x).toNat + j) % Config.fbWidth = c.val

end Sys2Proof.Machine

namespace Sys2Proof

/-! ### What an instruction names -/

/-- The instruction names `V[j]` as an ordinary destination (the "written" operands of files 41 to 44). -/
def Instr.writesReg : Instr → Reg → Bool
  | .ldImm x _, j | .addImm x _, j | .rnd x _, j => j == x
  | .ldReg x _, j | .orReg x _, j | .andReg x _, j | .xorReg x _, j | .addReg x _, j | .subReg x _, j | .shr x _, j
  | .subnReg x _, j | .shl x _, j => j == x
  | .ldVxDt x, j | .ldVxK x, j => j == x
  | .ldRegs x, j => decide (j.toNat ≤ x.toNat)
  | .cls, _ | .ret, _ | .jp _, _ | .call _, _ | .seImm _ _, _ | .sneImm _ _, _ | .seReg _ _, _ | .sneReg _ _, _ | .ldI _, _
  | .jpV0 _, _ | .drw _ _ _, _ | .ldDtVx _, _ | .ldStVx _, _ | .addI _, _ | .ldF _, _ | .ldB _, _ | .stRegs _, _ => false

/-- One of the six instructions that write `VF` as a side effect (R21). -/
def Instr.writesFlag : Instr → Bool
  | .addReg _ _ | .subReg _ _ | .shr _ _ | .subnReg _ _ | .shl _ _ | .drw _ _ _ => true
  | .cls | .ret | .jp _ | .call _ | .seImm _ _ | .sneImm _ _ | .seReg _ _ | .ldImm _ _ | .addImm _ _ | .ldReg _ _
  | .orReg _ _ | .andReg _ _ | .xorReg _ _ | .sneReg _ _ | .ldI _ | .jpV0 _ | .rnd _ _ | .ldVxDt _ | .ldVxK _ | .ldDtVx _
  | .ldStVx _ | .addI _ | .ldF _ | .ldB _ | .stRegs _ | .ldRegs _ => false

/-- How many bytes of `MEM`, from `I` on, the instruction reads or writes (R61). -/
def Instr.dataBytes : Instr → Nat
  | .drw _ _ n => n.toNat
  | .ldB _ => 3
  | .stRegs x | .ldRegs x => x.toNat + 1
  | .cls | .ret | .jp _ | .call _ | .seImm _ _ | .sneImm _ _ | .seReg _ _ | .ldImm _ _ | .addImm _ _ | .ldReg _ _
  | .orReg _ _ | .andReg _ _ | .xorReg _ _ | .addReg _ _ | .subReg _ _ | .shr _ _ | .subnReg _ _ | .shl _ _ | .sneReg _ _
  | .ldI _ | .jpV0 _ | .rnd _ _ | .ldVxDt _ | .ldVxK _ | .ldDtVx _ | .ldStVx _ | .addI _ | .ldF _ => 0

end Sys2Proof

namespace Sys2Proof.Machine

/-! ### Runs -/

/-- The events of a list, one after the other (R40). -/
def handleAll : List Event → State → Result
  | [], s => .next s
  | e :: es, s =>
    match handleEvent e s with
    | .next t => handleAll es t
    | .fault r => .fault r
    | .refused r => .refused r

/-- The `k` free events from the `n`-th on. -/
def freeEvents (n : Nat) : Nat → List Event
  | 0 => []
  | k + 1 => Config.freeEvent n :: freeEvents (n + 1) k

/-- The steps of a run. -/
inductive Reaches : State → State → Prop where
  | refl (s : State) : Reaches s s
  | next {s t u : State} : Reaches s t → step t = .next u → Reaches s u

/-- A halted state is a fault state, never a final state of a successful run (R191, R222). -/
def State.faulted (s : State) : Prop := s.mode = .halted

/-- The spec's convention for a finished program (R222): RUNNING, and the word at `pc` jumps to `pc`. -/
def State.finished (s : State) : Prop :=
  s.mode = .running ∧ s.fetchable = true ∧ ∃ nnn, decode s.fetchWord = .instr (.jp nnn) ∧ addrOfNnn nnn = s.pc

/-- A run is safe where no state it reaches is a fault state, under the environment's schedule in `s` and, after it, whatever the
free events are. -/
def State.Safe (s : State) : Prop := ∀ t, Reaches s t → ¬ t.faulted

/-- A run without a decode warning (R186, the spec's D23: the warning is observed on the output of each step). -/
def State.WarnFree (s : State) : Prop := ∀ t, Reaches s t → t.warn = none

/-! ### Invariants -/

/-- What every step keeps. -/
structure State.Inv (s : State) : Prop where
  /-- memory is in canonical form, below N (R60) -/
  memCanonical : Memory.wf s.mem = true
  /-- the stack depth is 0 to 16 (R25) -/
  depthLegal : s.sp.toNat ≤ Config.stackDepth
  /-- an open call was fetched, so its address is a place of fetch (R26, R62) -/
  openCallFetched : ∀ (k : Nat) (h : k < Config.stackDepth), k < s.sp.toNat → (s.stack[k]'h).toNat < Config.memSize - 1
  /-- a cause is recorded exactly while halted (R29, R190) -/
  causeWhileHalted : s.mode = .halted ↔ s.fcause ≠ .none
  /-- no address is recorded but while halted (R29, R43) -/
  noAddressOtherwise : s.mode ≠ .halted → s.faddr = 0
  /-- a pending key wait stands at its own instruction (R23, R31) -/
  waitAtItsInstruction : s.mode = .awaitKey → s.fetchable = true ∧ decode s.fetchWord = .instr (.ldVxK s.kreg)

/-- What a recorded fault says of the state it was taken in (R181), which the halted engine still shows (R190, R191). -/
def State.HaltReported (s : State) : Prop :=
  match s.fcause with
  | .none => True
  | .fetchOob => s.fetchable = false ∧ s.faddr.toNat = s.pc.toNat
  | .dataOob =>
    s.fetchable = true ∧ s.faddr.toNat = max s.i.toNat Config.memSize
      ∧ ∃ i, decode s.fetchWord = .instr i ∧ 0 < i.dataBytes ∧ Config.memSize ≤ s.i.toNat + i.dataBytes - 1
  | .stackOverflow =>
    s.fetchable = true ∧ s.faddr.toNat = s.pc.toNat ∧ s.sp = 16#8 ∧ ∃ nnn, decode s.fetchWord = .instr (.call nnn)
  | .stackUnderflow =>
    s.fetchable = true ∧ s.faddr.toNat = s.pc.toNat ∧ s.sp = 0#8 ∧ decode s.fetchWord = .instr .ret

end Sys2Proof.Machine
end

