-- ==== Sys2Proof/Certificates/Slice0/Obligations.lean ====
section
/-! DEFINITION. The statements for the provers. A docstring says which rule of spec/ a statement formalises; OBLIGATIONS.json
lists them. -/

open Sys2Proof Sys2Proof.Machine

/-! ### Encoding -/

/-- Words written out from the patterns of R95 decode to the instruction they stand for, and words of no pattern are rejected. -/
def Obligations.DecodesSampleWords : Prop :=
  decode 0x00E0#16 = .instr .cls ∧ decode 0x00EE#16 = .instr .ret ∧ decode 0x1ABC#16 = .instr (.jp 0xABC#12)
    ∧ decode 0x220C#16 = .instr (.call 0x20C#12) ∧ decode 0x3A05#16 = .instr (.seImm 0xA#4 0x05#8)
    ∧ decode 0x9120#16 = .instr (.sneReg 0x1#4 0x2#4) ∧ decode 0x6A2F#16 = .instr (.ldImm 0xA#4 0x2F#8)
    ∧ decode 0x8235#16 = .instr (.subReg 0x2#4 0x3#4) ∧ decode 0x8476#16 = .instr (.shr 0x4#4 0x7#4)
    ∧ decode 0x812E#16 = .instr (.shl 0x1#4 0x2#4) ∧ decode 0xA2F0#16 = .instr (.ldI 0x2F0#12)
    ∧ decode 0xB300#16 = .instr (.jpV0 0x300#12) ∧ decode 0xC30F#16 = .instr (.rnd 0x3#4 0x0F#8)
    ∧ decode 0xD012#16 = .instr (.drw 0x0#4 0x1#4 0x2#4) ∧ decode 0xF30A#16 = .instr (.ldVxK 0x3#4)
    ∧ decode 0xF033#16 = .instr (.ldB 0x0#4) ∧ decode 0xFF65#16 = .instr (.ldRegs 0xF#4)
    ∧ decode 0x5001#16 = .rejected (.undefinedOpcode 0x5001#16) ∧ decode 0xE19E#16 = .rejected (.undefinedOpcode 0xE19E#16)

/-- Decoding what the encoder wrote gives the instruction back, over words and over bytes in memory order: every instruction,
every operand value. -/
def Obligations.EncodeThenDecodeGivesTheInstruction : Prop :=
  ∀ i : Instr, i.wf = true ∧ decode (encode i) = .instr i ∧ ∀ rest, decodeBytes (encodeBytes i ++ rest) = (.instr i, rest)

/-- Every word the decoder reads is the encoding of what it read: no bit of a word is dropped. -/
def Obligations.DecodeThenEncodeGivesTheWord : Prop :=
  ∀ (w : Word) (i : Instr), decode w = .instr i → encode i = w

/-- R94: a word selects the instruction whose (op AND mask) = match; the 32 patterns are pairwise disjoint (the spec marks that
as derived from R95); a word that matches none is an undefined opcode. -/
def Obligations.MaskAndMatchSelectTheInstruction : Prop :=
  (∀ (w : Word) (i : Instr), decode w = .instr i → w &&& i.mask = i.matchValue ∧ (i.mask, i.matchValue) ∈ opcodeMap)
    ∧ (∀ (w : Word) (p : Word × Word), p ∈ opcodeMap → w &&& p.1 = p.2 →
        ∃ i, decode w = .instr i ∧ (i.mask, i.matchValue) = p)
    ∧ (opcodeMap.length = 32 ∧ opcodeMap.Nodup)
    ∧ (∀ (w : Word) (p q : Word × Word), p ∈ opcodeMap → q ∈ opcodeMap → w &&& p.1 = p.2 → w &&& q.1 = q.2 → p = q)
    ∧ (∀ w : Word, (∀ p ∈ opcodeMap, w &&& p.1 ≠ p.2) ↔ decode w = .rejected (.undefinedOpcode w))

/-- The undefined words by group (R97, which the spec marks as derived from R95; its counts are left out): the decoder rejects
exactly these, and rejects by name. -/
def Obligations.UndefinedWordsByGroup : Prop :=
  ∀ w : Word,
    ((∃ i, decode w = .instr i) ∨ decode w = .rejected (.undefinedOpcode w))
    ∧ (decode w = .rejected (.undefinedOpcode w) ↔
        (fieldG w = 0x0#4 ∧ w ≠ 0x00E0#16 ∧ w ≠ 0x00EE#16)
        ∨ (fieldG w = 0x5#4 ∧ fieldN w ≠ 0x0#4)
        ∨ (fieldG w = 0x8#4 ∧ fieldN w ∈ [0x8#4, 0x9#4, 0xA#4, 0xB#4, 0xC#4, 0xD#4, 0xF#4])
        ∨ (fieldG w = 0x9#4 ∧ fieldN w ≠ 0x0#4)
        ∨ fieldG w = 0xE#4
        ∨ (fieldG w = 0xF#4 ∧ fieldKk w ∉ [0x07#8, 0x0A#8, 0x15#8, 0x18#8, 0x1E#8, 0x29#8, 0x33#8, 0x55#8, 0x65#8]))

/-! ### The step -/

/-- R41, a STEP in RUNNING mode whose two bytes at `pc` decode: the step is the instruction's meaning, on the state with the
event taken and the inputs sampled, in which nothing but the ports differs. -/
def Obligations.StepRunsTheDecodedInstruction : Prop :=
  ∀ (s : State) (i : Instr) (key : Option Nibble) (rand : Byte),
    s.nextEvent = .step key rand → s.mode = .running → s.fetchable = true →
    decodeBytes (Memory.readBytes s.mem s.pc.toNat 2) = (.instr i, []) → i.wf = true →
    step s = exec i (s.takeEvent.beginStep key rand)
      ∧ s.OnlyChanges (s.takeEvent.beginStep key rand) ports
      ∧ (s.takeEvent.beginStep key rand).key = key ∧ (s.takeEvent.beginStep key rand).rand = rand
      ∧ (s.takeEvent.beginStep key rand).req = .none ∧ (s.takeEvent.beginStep key rand).warn = none

/-- Which event a step is: the schedule's first, or a free one where the schedule is empty. The schedule and the free events are
the model's choice (log 6, log 7); that any interleaving is legal is R199. -/
def Obligations.StepTakesTheNextEvent : Prop :=
  (∀ (s : State) (e : Event) (es : List Event), step { s with events := e :: es } = handleEvent e { s with events := es })
    ∧ (∀ s : State, s.events = [] → step s = handleEvent (Config.freeEvent s.draws) { s with draws := s.draws + 1 })

/-- R96: a word that matches none of the 32 patterns is a two-byte no-op that asserts WARN with the word. -/
def Obligations.UndefinedOpcodeIsANoOpWithWarning : Prop :=
  ∀ (s : State) (key : Option Nibble) (rand : Byte),
    s.nextEvent = .step key rand → s.mode = .running → s.fetchable = true →
    (∀ p ∈ opcodeMap, s.fetchWord &&& p.1 ≠ p.2) →
    ∃ t, step s = .next t ∧ t.warn = some s.fetchWord ∧ t.req = .none ∧ t.pc.toNat = (s.pc.toNat + 2) % 65536
      ∧ s.OnlyChanges t (.pc :: ports)

/-- R182: FETCH_OOB is checked at the start of a STEP in RUNNING mode, and in no other mode. -/
def Obligations.FetchOutOfBoundsHalts : Prop :=
  ∀ (s : State) (key : Option Nibble) (rand : Byte), s.nextEvent = .step key rand →
    (s.mode = .running → Config.memSize - 1 ≤ s.pc.toNat →
      ∃ t, step s = .next t ∧ t.mode = .halted ∧ t.fcause = .fetchOob ∧ t.faddr.toNat = s.pc.toNat
        ∧ t.req = .none ∧ t.warn = none ∧ s.OnlyChanges t ([.mode, .fcause, .faddr] ++ ports))
    ∧ (s.mode = .running → s.pc.toNat < Config.memSize - 1 → s.fcause ≠ .fetchOob →
        ∀ t, step s = .next t → t.fcause ≠ .fetchOob)
    ∧ (s.mode ≠ .running → ∃ t, step s = .next t ∧ t.fcause = s.fcause ∧ t.faddr = s.faddr)

/-- R181: the table of fault causes: condition, raiser, `FCAUSE`, `FADDR`; no other instruction raises any fault. The codes and
the addresses are the spec's own decision D17. -/
def Obligations.FaultCausesTable : Prop :=
  (∀ (s : State) (key : Option Nibble) (rand : Byte),
    s.nextEvent = .step key rand → s.mode = .running → s.fcause = .none → s.faddr = 0#17 → s.sp.toNat ≤ 16 →
    ∃ t, step s = .next t
      ∧ (t.mode = .halted ↔ t.fcause ≠ .none)
      ∧ (t.fcause = .fetchOob ↔ Config.memSize - 1 ≤ s.pc.toNat)
      ∧ (t.fcause = .dataOob ↔ s.pc.toNat < Config.memSize - 1 ∧ ∃ i, decode s.fetchWord = .instr i
          ∧ 0 < i.dataBytes ∧ Config.memSize ≤ s.i.toNat + i.dataBytes - 1)
      ∧ (t.fcause = .stackOverflow ↔ s.pc.toNat < Config.memSize - 1 ∧ s.sp = 16#8
          ∧ ∃ nnn, decode s.fetchWord = .instr (.call nnn))
      ∧ (t.fcause = .stackUnderflow ↔ s.pc.toNat < Config.memSize - 1 ∧ s.sp = 0#8 ∧ decode s.fetchWord = .instr .ret)
      ∧ t.faddr.toNat = (match t.fcause with
          | .none => 0
          | .fetchOob | .stackOverflow | .stackUnderflow => s.pc.toNat
          | .dataOob => max s.i.toNat Config.memSize))
    ∧ Cause.none.code = 0#3 ∧ Cause.fetchOob.code = 1#3 ∧ Cause.dataOob.code = 2#3 ∧ Cause.stackOverflow.code = 3#3
    ∧ Cause.stackUnderflow.code = 4#3

/-- R190: raising a fault, and, over whole steps, the step that halts the engine: `MODE`, `FCAUSE`, `FADDR` are written and no
other state element changes. -/
def Obligations.FaultsArePrecise : Prop :=
  (∀ (cause : Cause) (addr : Nat) (s : State), addr < 131072 → ∃ t, raiseFault cause addr s = .next t ∧ s.HaltsAs t cause addr)
  ∧ ∀ s t : State, step s = .next t → s.mode ≠ .halted → t.mode = .halted →
      t.fcause ≠ .none ∧ t.req = .none ∧ t.warn = none ∧ s.OnlyChanges t ([.mode, .fcause, .faddr] ++ ports)

/-- R191: HALTED is terminal: a STEP changes nothing (the spec's own decision D18), only RESET leaves, and FAULT holds for as
long as the engine is halted. -/
def Obligations.HaltedIsTerminal : Prop :=
  ∀ s : State, s.mode = .halted →
    (∀ key rand, s.nextEvent = .step key rand →
      ∃ t, step s = .next t ∧ t.req = .none ∧ t.warn = none ∧ s.OnlyChanges t ports)
    ∧ (∀ t, step s = .next t → t.mode ≠ .halted → s.nextEvent = .reset)
    ∧ (∀ t, step s = .next t → t.mode = .halted → t.faultOut = s.faultOut)

/-- R31, R205 and R213: how `MODE` changes over a step. AWAIT_KEY is entered only by `Fx0A` with no key, and left only by a STEP
that samples a key or by RESET; HALTED is entered from RUNNING only. -/
def Obligations.ModeTransitions : Prop :=
  ∀ s t : State, step s = .next t →
    (s.mode = .running → t.mode = .awaitKey →
      ∃ rand, s.nextEvent = .step none rand ∧ s.fetchable = true ∧ decode s.fetchWord = .instr (.ldVxK t.kreg))
    ∧ (s.mode = .awaitKey → t.mode ≠ .awaitKey →
        t.mode = .running ∧ (s.nextEvent = .reset ∨ ∃ k rand, s.nextEvent = .step (some k) rand))
    ∧ (s.mode = .halted → t.mode ≠ .awaitKey)

/-- R38, with R96, R160, R162, R171: REQ and WARN after a STEP: await-key exactly where the step ends waiting, clear-screen and
draw exactly where a `00E0` or a `Dxyn` has completed, WARN exactly where an undefined word was fetched. That a key step which
completes the wait returns REQ none is the spec's own decision D16 (log 18). -/
def Obligations.StepOutputs : Prop :=
  ∀ (s t : State) (key : Option Nibble) (rand : Byte), s.nextEvent = .step key rand → step s = .next t →
    (t.req = .awaitKey ↔ t.mode = .awaitKey)
    ∧ (t.req = .clearScreen ↔ s.mode = .running ∧ s.fetchable = true ∧ decode s.fetchWord = .instr .cls)
    ∧ (t.req = .draw ↔ s.mode = .running ∧ s.fetchable = true ∧ t.mode = .running
        ∧ ∃ x y n, decode s.fetchWord = .instr (.drw x y n))
    ∧ (∀ w, t.warn = some w ↔ s.mode = .running ∧ s.fetchable = true ∧ w = s.fetchWord
        ∧ decode s.fetchWord = .rejected (.undefinedOpcode w))

/-- R222: in a state whose word at `pc` jumps to `pc`, a STEP changes nothing but the ports, and the state stays such a one.
That such a state is "finished" is the spec's own decision D26. -/
def Obligations.SelfJumpChangesNothing : Prop :=
  ∀ (s : State) (key : Option Nibble) (rand : Byte), s.finished → s.nextEvent = .step key rand →
    ∃ t, step s = .next t ∧ s.OnlyChanges t ports ∧ t.finished

/-- R75 (which the spec marks as derived from R62 and R72): two steps, the first a `Fx55` that stores over the word after itself: the second runs the new word. -/
def Obligations.StoredCodeIsFetched : Prop :=
  ∀ (s : State) (x : Reg) (key key' : Option Nibble) (rand rand' : Byte) (es : List Event) (i : Instr),
    Memory.wf s.mem = true → s.events = .step key rand :: .step key' rand' :: es → s.mode = .running → s.fetchable = true →
    decode s.fetchWord = .instr (.stRegs x) → 1 ≤ x.toNat → s.i.toNat = s.pc.toNat + 2 →
    s.i.toNat + x.toNat < Config.memSize → decode (wordOfBytes (s.getV 0x0#4) (s.getV 0x1#4)) = .instr i →
    ∃ t, step s = .next t ∧ t.mode = .running ∧ t.pc.toNat = s.pc.toNat + 2
      ∧ step t = exec i (t.takeEvent.beginStep key' rand')

/-! ### Events other than STEP -/

/-- R194 (and R197): a TICK counts each timer down toward zero, in every `MODE`, and changes nothing else. The schedule and the
count of free events, which it may also take from, are the model's own (log 6, log 7). -/
def Obligations.TickCountsDown : Prop :=
  ∀ s : State, s.nextEvent = .tick →
    ∃ t, step s = .next t ∧ t.dt.toNat = s.dt.toNat - 1 ∧ t.st.toNat = s.st.toNat - 1
      ∧ s.OnlyChanges t [.dt, .st, .events, .draws]

/-- R199 with R40 (the spec's own decision D20), over whole runs: any finite list of events, with any number of TICKs between two
STEPs, happens in its order under the schedule that lists it, and what follows it is free, one event a step, TICKs that keep
coming among the possible values. The schedule and the free events are the model's choice (log 6, log 7). -/
def Obligations.EveryInterleavingHappens : Prop :=
  (∀ (es rest : List Event) (s : State),
    Host.Core.run Sys2Proof.core es.length { s with events := es ++ rest } = handleAll es { s with events := rest })
  ∧ (∀ (k : Nat) (s : State), s.events = [] →
      Host.Core.run Sys2Proof.core k s
        = mapNext (fun t => { t with draws := s.draws + k }) (handleAll (freeEvents s.draws k) s))

/-- R195 (derived from R194, with the spec's own decision D28): `tick(k)` equals k TICK events: each timer is max(0, timer - k);
and k steps of a schedule of k TICKs do just that. -/
def Obligations.ManyTicksSaturate : Prop :=
  ∀ (k : Nat) (s : State),
    (s.ticks k).dt.toNat = s.dt.toNat - k ∧ (s.ticks k).st.toNat = s.st.toNat - k ∧ s.OnlyChanges (s.ticks k) [.dt, .st]
    ∧ ∀ es, Host.Core.run Sys2Proof.core k { s with events := List.replicate k .tick ++ es }
        = Host.Outcome.next { s.ticks k with events := es }

/-- R196: the buzzer is on exactly while `ST` is not zero; a `Fx18`, the TICK that takes `ST` from 1 to 0 and RESET turn it on and
off as the rule lists, and nothing else does. -/
def Obligations.BuzzerFollowsTheSoundTimer : Prop :=
  (∀ s : State, s.buzzer = true ↔ s.st ≠ 0#8)
    ∧ (∀ (s : State) (x : Reg), ∃ t, exec (.ldStVx x) s = .next t ∧ (t.buzzer = true ↔ s.getV x ≠ 0#8))
    ∧ (∀ s : State, (s.nextEvent = .tick ∧ s.st = 1#8) ∨ s.nextEvent = .reset → ∃ t, step s = .next t ∧ t.buzzer = false)
    ∧ (∀ s t : State, step s = .next t → s.buzzer = false → t.buzzer = true →
        s.mode = .running ∧ s.fetchable = true ∧ ∃ x, decode s.fetchWord = .instr (.ldStVx x) ∧ s.getV x ≠ 0#8)
    ∧ (∀ s t : State, step s = .next t → s.buzzer = true → t.buzzer = false →
        (s.nextEvent = .tick ∧ s.st = 1#8) ∨ s.nextEvent = .reset
          ∨ (s.mode = .running ∧ s.fetchable = true ∧ ∃ x, decode s.fetchWord = .instr (.ldStVx x) ∧ s.getV x = 0#8))

/-- R210 (and R43, R212 for memory): RESET, in any `MODE`, puts every element at its reset value and leaves memory; and the
state after reset has those values. All but the pc's are the spec's own decision D4. -/
def Obligations.ResetGivesTheResetValues : Prop :=
  State.reset.HasResetValues
    ∧ ∀ s : State, s.nextEvent = .reset →
        ∃ t, step s = .next t ∧ t.HasResetValues ∧ t.mem = s.mem ∧ (∀ a, t.readByte a = s.readByte a)
          ∧ t.buzzer = false ∧ t.pending = none ∧ t.faultOut = none

/-- R40: the engine does not see what the environment does later: an event acts alike whatever the rest of the schedule is. -/
def Obligations.ScheduleIsInvisible : Prop :=
  ∀ (e : Event) (s : State) (es : List Event),
    handleEvent e { s with events := es } = mapNext (fun t => { t with events := es }) (handleEvent e s)

/-- R200 and R202 (with the spec's own decision D14): `KEY` is read by `Fx0A` alone and `RAND` by `Cxkk` alone: no other meaning
depends on them. -/
def Obligations.InputsReachOneInstructionEach : Prop :=
  (∀ (i : Instr) (s : State) (key : Option Nibble), (∀ x, i ≠ .ldVxK x) →
    exec i { s with key := key } = mapNext (fun t => { t with key := key }) (exec i s))
  ∧ (∀ (i : Instr) (s : State) (rand : Byte), (∀ x kk, i ≠ .rnd x kk) →
      exec i { s with rand := rand } = mapNext (fun t => { t with rand := rand }) (exec i s))

/-! ### Invariants -/

/-- The state after reset meets the invariant and reports no fault. -/
def Obligations.ResetMeetsTheInvariant : Prop := State.reset.Inv ∧ State.reset.HaltReported

/-- From every state that meets the invariant the machine has a next state, whatever the next event, and that state meets it:
memory stays canonical and below N, the depth 0 to 16, every open call a place of fetch, a cause recorded exactly while halted,
a pending wait at its own instruction. -/
def Obligations.EveryStepKeepsTheInvariant : Prop := ∀ s : State, s.Inv → ∃ t, step s = .next t ∧ t.Inv

/-- What the FAULT output says of the state it was raised in (R181) stays true for as long as it is shown (R190, R191). -/
def Obligations.EveryStepKeepsTheHaltReport : Prop :=
  ∀ s t : State, s.Inv → s.HaltReported → step s = .next t → t.HaltReported

/-! ### Who writes what -/

/-- R24 to R29, R32, R33: the instructions that can change each element of the state. -/
def Obligations.ElementWriters : Prop :=
  ∀ (i : Instr) (s t : State), exec i s = .next t →
    (t.i ≠ s.i → (∃ nnn, i = .ldI nnn) ∨ (∃ x, i = .addI x) ∨ ∃ x, i = .ldF x)
    ∧ (t.sp ≠ s.sp → i = .ret ∨ ∃ nnn, i = .call nnn)
    ∧ (t.stack ≠ s.stack → ∃ nnn, i = .call nnn)
    ∧ (t.dt ≠ s.dt → ∃ x, i = .ldDtVx x)
    ∧ (t.st ≠ s.st → ∃ x, i = .ldStVx x)
    ∧ (t.kreg ≠ s.kreg → ∃ x, i = .ldVxK x)
    ∧ (t.fb ≠ s.fb → i = .cls ∨ ∃ x y n, i = .drw x y n)
    ∧ (t.mem ≠ s.mem → (∃ x, i = .ldB x) ∨ ∃ x, i = .stRegs x)
    ∧ (t.mode ≠ s.mode → (t.mode = .awaitKey ∧ ∃ x, i = .ldVxK x)
        ∨ (t.mode = .halted ∧ (i = .ret ∨ (∃ nnn, i = .call nnn) ∨ 0 < i.dataBytes)))

/-- R20 to R22 and R143: a general register changes only where it is a named destination, or is `VF` under one of the six
flag-writing instructions; after those six, completed, `VF` is exactly 0x00 or 0x01 (R143, which the spec marks as derived). -/
def Obligations.RegisterAndFlagWriters : Prop :=
  ∀ (i : Instr) (s t : State), exec i s = .next t →
    (∀ j, t.getV j ≠ s.getV j → i.writesReg j = true ∨ (i.writesFlag = true ∧ j = vf))
    ∧ (i.writesFlag = true → s.mode = .running → t.mode = .running → t.getV vf = 0x00#8 ∨ t.getV vf = 0x01#8)

/-! ### Control transfer -/

/-- R121: `00EE` RET. Which slot is popped and that an empty stack faults are the spec's own decisions D9 and D8. -/
def Obligations.RetPops : Prop :=
  decode 0x00EE#16 = .instr .ret
    ∧ (∀ (s : State) (k : Nat) (h : k < Config.stackDepth), s.sp.toNat = k + 1 →
        ∃ t, exec .ret s = .next t ∧ t.sp.toNat = k ∧ t.pc.toNat = ((s.stack[k]'h).toNat + 2) % 65536
          ∧ s.OnlyChanges t [.sp, .pc])
    ∧ (∀ s : State, s.sp = 0#8 → ∃ t, exec .ret s = .next t ∧ s.HaltsAs t .stackUnderflow s.pc.toNat)

/-- R122 and R128: `1nnn` JP and `Bnnn` JP V0: the target is taken as it is, not checked and not reduced to 12 bits. -/
def Obligations.JumpsSetPc : Prop :=
  ∀ (nnn : Imm12) (s : State),
    (decode (0x1#4 ++ nnn) = .instr (.jp nnn)
      ∧ ∃ t, exec (.jp nnn) s = .next t ∧ t.pc.toNat = nnn.toNat ∧ s.OnlyChanges t [.pc])
    ∧ (decode (0xB#4 ++ nnn) = .instr (.jpV0 nnn)
      ∧ ∃ t, exec (.jpV0 nnn) s = .next t ∧ t.pc.toNat = (s.getV 0x0#4).toNat + nnn.toNat ∧ s.OnlyChanges t [.pc])

/-- R123: `2nnn` CALL: its own address is pushed; with a full stack it faults. Which slot is pushed to and that a full stack
faults are the spec's own decisions D9 and D8. -/
def Obligations.CallPushesItsOwnAddress : Prop :=
  ∀ (nnn : Imm12) (s : State),
    decode (0x2#4 ++ nnn) = .instr (.call nnn)
    ∧ (s.sp.toNat < 16 →
        ∃ t, exec (.call nnn) s = .next t ∧ t.sp.toNat = s.sp.toNat + 1 ∧ t.pc.toNat = nnn.toNat
          ∧ (∀ (k : Nat) (h : k < Config.stackDepth), t.stack[k]'h = if k = s.sp.toNat then s.pc else s.stack[k]'h)
          ∧ s.OnlyChanges t [.sp, .stack, .pc])
    ∧ (s.sp = 16#8 → ∃ t, exec (.call nnn) s = .next t ∧ s.HaltsAs t .stackOverflow s.pc.toNat)

/-- The model's own stop (log 10): with `SP` above 16, which the spec says is never reached (R25), a call and a return stop
under the name stackSlotAbsent. -/
def Obligations.DepthBeyondSixteenStops : Prop :=
  ∀ (s : State) (nnn : Imm12), 16 < s.sp.toNat →
    exec (.call nnn) s = .fault .stackSlotAbsent ∧ exec .ret s = .fault .stackSlotAbsent

/-- R129 (which the spec marks as derived from R121 and R123): the stack discipline: a return with the depth the call left, the stack undisturbed below it, goes to the call's
address + 2 with the depth of before the call; no other instruction touches the stack. -/
def Obligations.CallThenReturnRoundTrip : Prop :=
  (∀ (nnn : Imm12) (s : State), s.sp.toNat < 16 →
    ∃ t, exec (.call nnn) s = .next t
      ∧ ∀ u : State, u.sp = t.sp →
          (∀ (k : Nat) (h : k < Config.stackDepth), k < t.sp.toNat → u.stack[k]'h = t.stack[k]'h) →
          ∃ w, exec .ret u = .next w ∧ w.pc.toNat = (s.pc.toNat + 2) % 65536 ∧ w.sp = s.sp)
  ∧ (∀ (i : Instr) (s t : State), i ≠ .ret → (∀ nnn, i ≠ .call nnn) → exec i s = .next t →
      t.sp = s.sp ∧ t.stack = s.stack)

/-- R124, R125, R126, R127: the four conditional skips. -/
def Obligations.SkipsCompare : Prop :=
  ∀ (x y : Reg) (kk : Byte) (s : State),
    (decode (0x3#4 ++ x ++ kk) = .instr (.seImm x kk)
      ∧ ∃ t, exec (.seImm x kk) s = .next t
        ∧ t.pc.toNat = (s.pc.toNat + if (s.getV x).toNat = kk.toNat then 4 else 2) % 65536 ∧ s.OnlyChanges t [.pc])
    ∧ (decode (0x4#4 ++ x ++ kk) = .instr (.sneImm x kk)
      ∧ ∃ t, exec (.sneImm x kk) s = .next t
        ∧ t.pc.toNat = (s.pc.toNat + if (s.getV x).toNat = kk.toNat then 2 else 4) % 65536 ∧ s.OnlyChanges t [.pc])
    ∧ (decode (0x5#4 ++ x ++ y ++ 0x0#4) = .instr (.seReg x y)
      ∧ ∃ t, exec (.seReg x y) s = .next t
        ∧ t.pc.toNat = (s.pc.toNat + if (s.getV x).toNat = (s.getV y).toNat then 4 else 2) % 65536 ∧ s.OnlyChanges t [.pc])
    ∧ (decode (0x9#4 ++ x ++ y ++ 0x0#4) = .instr (.sneReg x y)
      ∧ ∃ t, exec (.sneReg x y) s = .next t
        ∧ t.pc.toNat = (s.pc.toNat + if (s.getV x).toNat = (s.getV y).toNat then 2 else 4) % 65536 ∧ s.OnlyChanges t [.pc])

/-! ### Register load, arithmetic, logic, shift, random -/

/-- R130 and R132: load immediate and copy: one destination, no flag. -/
def Obligations.LoadsMoveAByte : Prop :=
  ∀ (x y : Reg) (kk : Byte) (s : State),
    (decode (0x6#4 ++ x ++ kk) = .instr (.ldImm x kk)
      ∧ ∃ t, exec (.ldImm x kk) s = .next t ∧ (∀ j, t.getV j = if j = x then kk else s.getV j)
        ∧ t.pc.toNat = (s.pc.toNat + 2) % 65536 ∧ s.OnlyChanges t [.v, .pc])
    ∧ (decode (0x8#4 ++ x ++ y ++ 0x0#4) = .instr (.ldReg x y)
      ∧ ∃ t, exec (.ldReg x y) s = .next t ∧ (∀ j, t.getV j = if j = x then s.getV y else s.getV j)
        ∧ t.pc.toNat = (s.pc.toNat + 2) % 65536 ∧ s.OnlyChanges t [.v, .pc])

/-- R133, R134, R135: the logic instructions, bit by bit. That `VF` is neither written nor cleared is the spec's own decision D13. -/
def Obligations.LogicIsBitwise : Prop :=
  ∀ (x y : Reg) (s : State),
    (decode (0x8#4 ++ x ++ y ++ 0x1#4) = .instr (.orReg x y)
      ∧ ∃ t, exec (.orReg x y) s = .next t
        ∧ (∀ b : Nat, b < 8 → (t.getV x).getLsbD b = ((s.getV x).getLsbD b || (s.getV y).getLsbD b))
        ∧ (∀ j, j ≠ x → t.getV j = s.getV j)
        ∧ t.pc.toNat = (s.pc.toNat + 2) % 65536 ∧ s.OnlyChanges t [.v, .pc])
    ∧ (decode (0x8#4 ++ x ++ y ++ 0x2#4) = .instr (.andReg x y)
      ∧ ∃ t, exec (.andReg x y) s = .next t
        ∧ (∀ b : Nat, b < 8 → (t.getV x).getLsbD b = ((s.getV x).getLsbD b && (s.getV y).getLsbD b))
        ∧ (∀ j, j ≠ x → t.getV j = s.getV j)
        ∧ t.pc.toNat = (s.pc.toNat + 2) % 65536 ∧ s.OnlyChanges t [.v, .pc])
    ∧ (decode (0x8#4 ++ x ++ y ++ 0x3#4) = .instr (.xorReg x y)
      ∧ ∃ t, exec (.xorReg x y) s = .next t
        ∧ (∀ b : Nat, b < 8 → (t.getV x).getLsbD b = ((s.getV x).getLsbD b ^^ (s.getV y).getLsbD b))
        ∧ (∀ j, j ≠ x → t.getV j = s.getV j)
        ∧ t.pc.toNat = (s.pc.toNat + 2) % 65536 ∧ s.OnlyChanges t [.v, .pc])

/-- R131: `7xkk` ADD Vx, kk: modulo 256, `VF` not written unless x = 15 names it. -/
def Obligations.AddImmediateWritesNoFlag : Prop :=
  ∀ (x : Reg) (kk : Byte) (s : State),
    decode (0x7#4 ++ x ++ kk) = .instr (.addImm x kk)
    ∧ ∃ t, exec (.addImm x kk) s = .next t ∧ (t.getV x).toNat = ((s.getV x).toNat + kk.toNat) % 256
      ∧ (∀ j, j ≠ x → t.getV j = s.getV j) ∧ t.pc.toNat = (s.pc.toNat + 2) % 65536 ∧ s.OnlyChanges t [.v, .pc]

/-- R136: `8xy4` ADD Vx, Vy: the sum modulo 256, then the carry in `VF` as the last write. -/
def Obligations.AddWritesSumThenCarry : Prop :=
  ∀ (x y : Reg) (s : State),
    decode (0x8#4 ++ x ++ y ++ 0x4#4) = .instr (.addReg x y)
    ∧ ∃ t, exec (.addReg x y) s = .next t
      ∧ t.getV 0xF#4 = (if (s.getV x).toNat + (s.getV y).toNat > 255 then 0x01#8 else 0x00#8)
      ∧ (x ≠ 0xF#4 → (t.getV x).toNat = ((s.getV x).toNat + (s.getV y).toNat) % 256)
      ∧ (∀ j, j ≠ x → j ≠ 0xF#4 → t.getV j = s.getV j)
      ∧ t.pc.toNat = (s.pc.toNat + 2) % 65536 ∧ s.OnlyChanges t [.v, .pc]

/-- R137 and R139: `8xy5` SUB and `8xy7` SUBN: the difference modulo 256, then the STRICT greater-than in `VF`. -/
def Obligations.SubtractionsWriteDifferenceThenGreater : Prop :=
  ∀ (x y : Reg) (s : State),
    (decode (0x8#4 ++ x ++ y ++ 0x5#4) = .instr (.subReg x y)
      ∧ ∃ t, exec (.subReg x y) s = .next t
        ∧ t.getV 0xF#4 = (if (s.getV x).toNat > (s.getV y).toNat then 0x01#8 else 0x00#8)
        ∧ (x ≠ 0xF#4 → ((t.getV x).toNat : Int) = ((s.getV x).toNat - (s.getV y).toNat : Int) % 256)
        ∧ (∀ j, j ≠ x → j ≠ 0xF#4 → t.getV j = s.getV j)
        ∧ t.pc.toNat = (s.pc.toNat + 2) % 65536 ∧ s.OnlyChanges t [.v, .pc])
    ∧ (decode (0x8#4 ++ x ++ y ++ 0x7#4) = .instr (.subnReg x y)
      ∧ ∃ t, exec (.subnReg x y) s = .next t
        ∧ t.getV 0xF#4 = (if (s.getV y).toNat > (s.getV x).toNat then 0x01#8 else 0x00#8)
        ∧ (x ≠ 0xF#4 → ((t.getV x).toNat : Int) = ((s.getV y).toNat - (s.getV x).toNat : Int) % 256)
        ∧ (∀ j, j ≠ x → j ≠ 0xF#4 → t.getV j = s.getV j)
        ∧ t.pc.toNat = (s.pc.toNat + 2) % 65536 ∧ s.OnlyChanges t [.v, .pc])

/-- R138 and R140: `8xy6` SHR and `8xyE` SHL, any `y`: by one place, then the bit shifted out in `VF`. -/
def Obligations.ShiftsWriteResultThenBitShiftedOut : Prop :=
  ∀ (x y : Reg) (s : State),
    (decode (0x8#4 ++ x ++ y ++ 0x6#4) = .instr (.shr x y)
      ∧ ∃ t, exec (.shr x y) s = .next t ∧ (t.getV 0xF#4).toNat = (s.getV x).toNat % 2
        ∧ (x ≠ 0xF#4 → (t.getV x).toNat = (s.getV x).toNat / 2)
        ∧ (∀ j, j ≠ x → j ≠ 0xF#4 → t.getV j = s.getV j)
        ∧ t.pc.toNat = (s.pc.toNat + 2) % 65536 ∧ s.OnlyChanges t [.v, .pc])
    ∧ (decode (0x8#4 ++ x ++ y ++ 0xE#4) = .instr (.shl x y)
      ∧ ∃ t, exec (.shl x y) s = .next t ∧ (t.getV 0xF#4).toNat = (s.getV x).toNat / 128
        ∧ (x ≠ 0xF#4 → (t.getV x).toNat = 2 * (s.getV x).toNat % 256)
        ∧ (∀ j, j ≠ x → j ≠ 0xF#4 → t.getV j = s.getV j)
        ∧ t.pc.toNat = (s.pc.toNat + 2) % 65536 ∧ s.OnlyChanges t [.v, .pc])

/-- R141: `Cxkk` RND: the random input ANDed with `kk`, for every value of the input. -/
def Obligations.RandomIsMasked : Prop :=
  ∀ (x : Reg) (kk : Byte) (s : State),
    decode (0xC#4 ++ x ++ kk) = .instr (.rnd x kk)
    ∧ ∃ t, exec (.rnd x kk) s = .next t
      ∧ (∀ b : Nat, b < 8 → (t.getV x).getLsbD b = (s.rand.getLsbD b && kk.getLsbD b))
      ∧ (t.getV x).toNat ≤ kk.toNat
      ∧ (∀ j, j ≠ x → t.getV j = s.getV j) ∧ t.pc.toNat = (s.pc.toNat + 2) % 65536 ∧ s.OnlyChanges t [.v, .pc]

/-! ### The address register and memory -/

/-- R150 and R151: `Annn` and `Fx1E`: what `I` becomes; no flag, no check against N, no access. -/
def Obligations.AddressRegisterLoadsAndAdds : Prop :=
  ∀ (x : Reg) (nnn : Imm12) (s : State),
    (decode (0xA#4 ++ nnn) = .instr (.ldI nnn)
      ∧ ∃ t, exec (.ldI nnn) s = .next t ∧ t.i.toNat = nnn.toNat
        ∧ t.pc.toNat = (s.pc.toNat + 2) % 65536 ∧ s.OnlyChanges t [.i, .pc])
    ∧ (decode (0xF#4 ++ x ++ 0x1E#8) = .instr (.addI x)
      ∧ ∃ t, exec (.addI x) s = .next t ∧ t.i.toNat = (s.i.toNat + (s.getV x).toNat) % 65536
        ∧ t.pc.toNat = (s.pc.toNat + 2) % 65536 ∧ s.OnlyChanges t [.i, .pc])

/-- R152: `Fx29`: the address of the glyph of the low four bits. The font's place and the low four bits are the spec's own
decisions D3 and D11 (log 1, log 16). -/
def Obligations.FontGlyphAddress : Prop :=
  ∀ (x : Reg) (s : State),
    decode (0xF#4 ++ x ++ 0x29#8) = .instr (.ldF x)
    ∧ ∃ t, exec (.ldF x) s = .next t ∧ t.i.toNat = 0x000 + 5 * ((s.getV x).toNat % 16)
      ∧ t.pc.toNat = (s.pc.toNat + 2) % 65536 ∧ s.OnlyChanges t [.i, .pc]

/-- R153: `Fx33`: the three decimal digits, hundreds at the lowest address; every other byte as before; a range that leaves
memory faults with no byte written. -/
def Obligations.BcdStoresThreeDigits : Prop :=
  ∀ (x : Reg) (s : State),
    decode (0xF#4 ++ x ++ 0x33#8) = .instr (.ldB x)
    ∧ (Memory.wf s.mem = true → s.effAddr 2 < Config.memSize →
        ∃ t, exec (.ldB x) s = .next t
          ∧ (t.readByte (s.effAddr 0)).toNat = (s.getV x).toNat / 100
          ∧ (t.readByte (s.effAddr 1)).toNat = (s.getV x).toNat / 10 % 10
          ∧ (t.readByte (s.effAddr 2)).toNat = (s.getV x).toNat % 10
          ∧ (∀ a, a ≠ s.effAddr 0 → a ≠ s.effAddr 1 → a ≠ s.effAddr 2 → t.readByte a = s.readByte a)
          ∧ Memory.wf t.mem = true ∧ t.pc.toNat = (s.pc.toNat + 2) % 65536 ∧ s.OnlyChanges t [.mem, .pc])
    ∧ (Config.memSize ≤ s.effAddr 2 →
        ∃ t, exec (.ldB x) s = .next t ∧ s.HaltsAs t .dataOob (max s.i.toNat Config.memSize))

/-- R154: `Fx55`: `V[0]` to `V[x]`, inclusive, ascending from `I`; any address below N may be stored to (R67). -/
def Obligations.StoreRegistersThroughX : Prop :=
  ∀ (x : Reg) (s : State),
    decode (0xF#4 ++ x ++ 0x55#8) = .instr (.stRegs x)
    ∧ (Memory.wf s.mem = true → s.effAddr x.toNat < Config.memSize →
        ∃ t, exec (.stRegs x) s = .next t
          ∧ (∀ k : Reg, k.toNat ≤ x.toNat → t.readByte (s.effAddr k.toNat) = s.getV k)
          ∧ (∀ a, (∀ k : Reg, k.toNat ≤ x.toNat → a ≠ s.effAddr k.toNat) → t.readByte a = s.readByte a)
          ∧ Memory.wf t.mem = true ∧ t.pc.toNat = (s.pc.toNat + 2) % 65536 ∧ s.OnlyChanges t [.mem, .pc])
    ∧ (Config.memSize ≤ s.effAddr x.toNat →
        ∃ t, exec (.stRegs x) s = .next t ∧ s.HaltsAs t .dataOob (max s.i.toNat Config.memSize))

/-- R155: `Fx65`: `V[0]` to `V[x]` from ascending addresses; registers above `V[x]`, memory and `I` as before. -/
def Obligations.LoadRegistersThroughX : Prop :=
  ∀ (x : Reg) (s : State),
    decode (0xF#4 ++ x ++ 0x65#8) = .instr (.ldRegs x)
    ∧ (s.effAddr x.toNat < Config.memSize →
        ∃ t, exec (.ldRegs x) s = .next t
          ∧ (∀ j : Reg, t.getV j = if j.toNat ≤ x.toNat then s.readByte (s.effAddr j.toNat) else s.getV j)
          ∧ t.pc.toNat = (s.pc.toNat + 2) % 65536 ∧ s.OnlyChanges t [.v, .pc])
    ∧ (Config.memSize ≤ s.effAddr x.toNat →
        ∃ t, exec (.ldRegs x) s = .next t ∧ s.HaltsAs t .dataOob (max s.i.toNat Config.memSize))

/-- R183: with N = 4096, exactly when the four memory instructions fault, and that `Annn`, `Fx1E`, `Fx29` never do. -/
def Obligations.DataFaultsExactly : Prop :=
  ∀ s : State, s.mode = .running →
    (∀ x, (∃ t, exec (.ldB x) s = .next t ∧ t.mode = .halted ∧ t.fcause = .dataOob) ↔ 0xFFE ≤ s.i.toNat)
    ∧ (∀ x : Reg, (∃ t, exec (.stRegs x) s = .next t ∧ t.mode = .halted ∧ t.fcause = .dataOob) ↔ 0x1000 ≤ s.i.toNat + x.toNat)
    ∧ (∀ x : Reg, (∃ t, exec (.ldRegs x) s = .next t ∧ t.mode = .halted ∧ t.fcause = .dataOob) ↔ 0x1000 ≤ s.i.toNat + x.toNat)
    ∧ (∀ (x y : Reg) (n : Nibble), (∃ t, exec (.drw x y n) s = .next t ∧ t.mode = .halted ∧ t.fcause = .dataOob)
        ↔ 0 < n.toNat ∧ 0x1000 < s.i.toNat + n.toNat)
    ∧ (∀ (x : Reg) (nnn : Imm12), (∃ t, exec (.ldI nnn) s = .next t ∧ t.mode = .running)
        ∧ (∃ t, exec (.addI x) s = .next t ∧ t.mode = .running) ∧ (∃ t, exec (.ldF x) s = .next t ∧ t.mode = .running))

/-! ### Display -/

/-- R160: `00E0`: every pixel 0, the clear-screen request, `VF` not written. -/
def Obligations.ClearScreenClearsEveryPixel : Prop :=
  decode 0x00E0#16 = .instr .cls
    ∧ ∀ s : State, ∃ t, exec .cls s = .next t ∧ (∀ r c, t.readPort r c = false) ∧ t.req = .clearScreen
        ∧ t.pc.toNat = (s.pc.toNat + 2) % 65536 ∧ s.OnlyChanges t [.fb, .req, .pc]

/-- R163: no pixel is visited twice in one draw, and the whole draw equals the parallel statement: every pixel a set sprite bit
lands on is toggled, every other stays, `VF` is 1 iff one of the toggled pixels was lit before, else 0 (R162). `n` = 0 draws
nothing and needs no range (R162 b, the spec's own decision D10; R163 is marked derived from R161). -/
def Obligations.DrawTogglesTheSpritesPixels : Prop :=
  (∀ ox j j' : Nat, j < 8 → j' < 8 → (ox + j) % Config.fbWidth = (ox + j') % Config.fbWidth → j = j')
  ∧ (∀ oy i i' : Nat, i < 15 → i' < 15 → (oy + i) % Config.fbHeight = (oy + i') % Config.fbHeight → i = i')
  ∧ ∀ (x y : Reg) (n : Nibble) (s : State), n = 0x0#4 ∨ s.i.toNat + n.toNat ≤ Config.memSize →
      decode (0xD#4 ++ x ++ y ++ n) = .instr (.drw x y n)
      ∧ ∃ t, exec (.drw x y n) s = .next t
        ∧ (∀ r c, s.Toggles x y n r c → t.readPort r c = !s.readPort r c)
        ∧ (∀ r c, ¬ s.Toggles x y n r c → t.readPort r c = s.readPort r c)
        ∧ ((∃ r c, s.Toggles x y n r c ∧ s.readPort r c = true) → t.getV 0xF#4 = 0x01#8)
        ∧ ((¬ ∃ r c, s.Toggles x y n r c ∧ s.readPort r c = true) → t.getV 0xF#4 = 0x00#8)
        ∧ (∀ j, j ≠ 0xF#4 → t.getV j = s.getV j)
        ∧ t.req = .draw ∧ t.pc.toNat = (s.pc.toNat + 2) % 65536 ∧ s.OnlyChanges t [.v, .fb, .req, .pc]

/-- R162, its exception: a sprite that leaves memory faults with no pixel, no register and not `pc` changed. -/
def Obligations.DrawOutOfBoundsFaults : Prop :=
  ∀ (x y : Reg) (n : Nibble) (s : State), 0 < n.toNat → Config.memSize ≤ s.i.toNat + n.toNat - 1 →
    ∃ t, exec (.drw x y n) s = .next t ∧ s.HaltsAs t .dataOob (max s.i.toNat Config.memSize)

/-- R164 (which the spec marks as derived from R162 and R163): (a) the identical sprite at the identical location, drawn a second time, restores every pixel, and collides iff the
first draw set a pixel; (b) one row at (63, 31) touches only columns 63, 0 to 6 of row 31. -/
def Obligations.DrawTwiceRestoresAndWraps : Prop :=
  (∀ (x y : Reg) (n : Nibble) (s t : State), n = 0x0#4 ∨ s.i.toNat + n.toNat ≤ Config.memSize →
    exec (.drw x y n) s = .next t →
    ∀ t' : State, t'.fb = t.fb → t'.i = s.i → t'.mem = s.mem → t'.getV x = s.getV x → t'.getV y = s.getV y →
      ∃ u, exec (.drw x y n) t' = .next u ∧ (∀ r c, u.readPort r c = s.readPort r c)
        ∧ (u.getV 0xF#4 = 0x01#8 ↔ ∃ r c, s.readPort r c = false ∧ t.readPort r c = true))
  ∧ (∀ (x y : Reg) (s : State), s.i.toNat + 1 ≤ Config.memSize → (s.getV x).toNat = Config.fbWidth - 1 →
      (s.getV y).toNat = Config.fbHeight - 1 →
      ∃ t, exec (.drw x y 0x1#4) s = .next t
        ∧ (∀ r c, t.readPort r c ≠ s.readPort r c → r.val = Config.fbHeight - 1 ∧ (c.val = Config.fbWidth - 1 ∨ c.val ≤ 6))
        ∧ (t.readPort 31 0 = (s.readPort 31 0 ^^ (s.readByte s.i.toNat).getLsbD 6)))

/-! ### Timers and key wait -/

/-- R170, R172, R173: `Fx07`, `Fx15`, `Fx18`; and, of R170, that the delay timer a program reads never goes up but by a `Fx15`. -/
def Obligations.TimerMoves : Prop :=
  (∀ s t : State, step s = .next t → s.dt.toNat < t.dt.toNat →
    s.mode = .running ∧ s.fetchable = true ∧ ∃ x, decode s.fetchWord = .instr (.ldDtVx x) ∧ t.dt = s.getV x)
  ∧ ∀ (x : Reg) (s : State),
    (decode (0xF#4 ++ x ++ 0x07#8) = .instr (.ldVxDt x)
      ∧ ∃ t, exec (.ldVxDt x) s = .next t ∧ (∀ j, t.getV j = if j = x then s.dt else s.getV j)
        ∧ t.pc.toNat = (s.pc.toNat + 2) % 65536 ∧ s.OnlyChanges t [.v, .pc])
    ∧ (decode (0xF#4 ++ x ++ 0x15#8) = .instr (.ldDtVx x)
      ∧ ∃ t, exec (.ldDtVx x) s = .next t ∧ t.dt = s.getV x
        ∧ t.pc.toNat = (s.pc.toNat + 2) % 65536 ∧ s.OnlyChanges t [.dt, .pc])
    ∧ (decode (0xF#4 ++ x ++ 0x18#8) = .instr (.ldStVx x)
      ∧ ∃ t, exec (.ldStVx x) s = .next t ∧ t.st = s.getV x ∧ t.buzzer = decide ((s.getV x).toNat ≠ 0)
        ∧ t.pc.toNat = (s.pc.toNat + 2) % 65536 ∧ s.OnlyChanges t [.st, .pc])

/-- R171: `Fx0A`, in the step that fetches it and in every later STEP of the wait, with TICKs honoured meanwhile. When the key is
sampled, what `pc` holds meanwhile and the request are the spec's own decisions D15 and D16 (log 18). -/
def Obligations.KeyWaitCompletesOnAKey : Prop :=
  (∀ (x : Reg) (s : State),
    decode (0xF#4 ++ x ++ 0x0A#8) = .instr (.ldVxK x)
    ∧ (∀ k, s.key = some k →
        ∃ t, exec (.ldVxK x) s = .next t ∧ (t.getV x).toNat = k.toNat ∧ (∀ j, j ≠ x → t.getV j = s.getV j)
          ∧ t.pc.toNat = (s.pc.toNat + 2) % 65536 ∧ s.OnlyChanges t [.v, .pc])
    ∧ (s.key = none →
        ∃ t, exec (.ldVxK x) s = .next t ∧ t.mode = .awaitKey ∧ t.kreg = x ∧ t.req = .awaitKey ∧ t.pending = some x
          ∧ s.OnlyChanges t [.mode, .kreg, .req]))
  ∧ (∀ s : State, s.mode = .awaitKey →
      (∀ k rand, s.nextEvent = .step (some k) rand →
        ∃ t, step s = .next t ∧ (t.getV s.kreg).toNat = k.toNat ∧ (∀ j, j ≠ s.kreg → t.getV j = s.getV j)
          ∧ t.pc.toNat = (s.pc.toNat + 2) % 65536 ∧ t.mode = .running ∧ t.req = .none ∧ t.pending = none
          ∧ s.OnlyChanges t ([.v, .pc, .mode] ++ ports))
      ∧ (∀ rand, s.nextEvent = .step none rand →
          ∃ t, step s = .next t ∧ t.req = .awaitKey ∧ t.pending = some s.kreg ∧ s.OnlyChanges t ports)
      ∧ (s.nextEvent = .tick →
          ∃ t, step s = .next t ∧ t.mode = .awaitKey ∧ t.pending = some s.kreg
            ∧ t.dt.toNat = s.dt.toNat - 1 ∧ t.st.toNat = s.st.toNat - 1))
end

