-- ==== Sys2Proof/Laws/State.lean ====
section
/-! SUPPORT. The fields after each update of State: one lemma a field, so that no proof unfolds an update. -/

namespace Sys2Proof.Machine

/-! ### `setV` -/

@[simp] theorem State.setV_v (s : State) (x : Reg) (b : Byte) : (s.setV x b).v = s.v.set x.toNat b x.isLt := rfl
@[simp] theorem State.setV_i (s : State) (x : Reg) (b : Byte) : (s.setV x b).i = s.i := rfl
@[simp] theorem State.setV_pc (s : State) (x : Reg) (b : Byte) : (s.setV x b).pc = s.pc := rfl
@[simp] theorem State.setV_sp (s : State) (x : Reg) (b : Byte) : (s.setV x b).sp = s.sp := rfl
@[simp] theorem State.setV_stack (s : State) (x : Reg) (b : Byte) : (s.setV x b).stack = s.stack := rfl
@[simp] theorem State.setV_dt (s : State) (x : Reg) (b : Byte) : (s.setV x b).dt = s.dt := rfl
@[simp] theorem State.setV_st (s : State) (x : Reg) (b : Byte) : (s.setV x b).st = s.st := rfl
@[simp] theorem State.setV_mode (s : State) (x : Reg) (b : Byte) : (s.setV x b).mode = s.mode := rfl
@[simp] theorem State.setV_kreg (s : State) (x : Reg) (b : Byte) : (s.setV x b).kreg = s.kreg := rfl
@[simp] theorem State.setV_fcause (s : State) (x : Reg) (b : Byte) : (s.setV x b).fcause = s.fcause := rfl
@[simp] theorem State.setV_faddr (s : State) (x : Reg) (b : Byte) : (s.setV x b).faddr = s.faddr := rfl
@[simp] theorem State.setV_fb (s : State) (x : Reg) (b : Byte) : (s.setV x b).fb = s.fb := rfl
@[simp] theorem State.setV_mem (s : State) (x : Reg) (b : Byte) : (s.setV x b).mem = s.mem := rfl
@[simp] theorem State.setV_key (s : State) (x : Reg) (b : Byte) : (s.setV x b).key = s.key := rfl
@[simp] theorem State.setV_rand (s : State) (x : Reg) (b : Byte) : (s.setV x b).rand = s.rand := rfl
@[simp] theorem State.setV_req (s : State) (x : Reg) (b : Byte) : (s.setV x b).req = s.req := rfl
@[simp] theorem State.setV_warn (s : State) (x : Reg) (b : Byte) : (s.setV x b).warn = s.warn := rfl
@[simp] theorem State.setV_events (s : State) (x : Reg) (b : Byte) : (s.setV x b).events = s.events := rfl
@[simp] theorem State.setV_draws (s : State) (x : Reg) (b : Byte) : (s.setV x b).draws = s.draws := rfl

/-! ### `setPc` -/

@[simp] theorem State.setPc_v (s : State) (t : Word) : (s.setPc t).v = s.v := rfl
@[simp] theorem State.setPc_i (s : State) (t : Word) : (s.setPc t).i = s.i := rfl
@[simp] theorem State.setPc_pc (s : State) (t : Word) : (s.setPc t).pc = t := rfl
@[simp] theorem State.setPc_sp (s : State) (t : Word) : (s.setPc t).sp = s.sp := rfl
@[simp] theorem State.setPc_stack (s : State) (t : Word) : (s.setPc t).stack = s.stack := rfl
@[simp] theorem State.setPc_dt (s : State) (t : Word) : (s.setPc t).dt = s.dt := rfl
@[simp] theorem State.setPc_st (s : State) (t : Word) : (s.setPc t).st = s.st := rfl
@[simp] theorem State.setPc_mode (s : State) (t : Word) : (s.setPc t).mode = s.mode := rfl
@[simp] theorem State.setPc_kreg (s : State) (t : Word) : (s.setPc t).kreg = s.kreg := rfl
@[simp] theorem State.setPc_fcause (s : State) (t : Word) : (s.setPc t).fcause = s.fcause := rfl
@[simp] theorem State.setPc_faddr (s : State) (t : Word) : (s.setPc t).faddr = s.faddr := rfl
@[simp] theorem State.setPc_fb (s : State) (t : Word) : (s.setPc t).fb = s.fb := rfl
@[simp] theorem State.setPc_mem (s : State) (t : Word) : (s.setPc t).mem = s.mem := rfl
@[simp] theorem State.setPc_key (s : State) (t : Word) : (s.setPc t).key = s.key := rfl
@[simp] theorem State.setPc_rand (s : State) (t : Word) : (s.setPc t).rand = s.rand := rfl
@[simp] theorem State.setPc_req (s : State) (t : Word) : (s.setPc t).req = s.req := rfl
@[simp] theorem State.setPc_warn (s : State) (t : Word) : (s.setPc t).warn = s.warn := rfl
@[simp] theorem State.setPc_events (s : State) (t : Word) : (s.setPc t).events = s.events := rfl
@[simp] theorem State.setPc_draws (s : State) (t : Word) : (s.setPc t).draws = s.draws := rfl

/-! ### `advance` -/

@[simp] theorem State.advance_v (s : State) : (s.advance).v = s.v := rfl
@[simp] theorem State.advance_i (s : State) : (s.advance).i = s.i := rfl
@[simp] theorem State.advance_pc (s : State) : (s.advance).pc = s.nextPc := rfl
@[simp] theorem State.advance_sp (s : State) : (s.advance).sp = s.sp := rfl
@[simp] theorem State.advance_stack (s : State) : (s.advance).stack = s.stack := rfl
@[simp] theorem State.advance_dt (s : State) : (s.advance).dt = s.dt := rfl
@[simp] theorem State.advance_st (s : State) : (s.advance).st = s.st := rfl
@[simp] theorem State.advance_mode (s : State) : (s.advance).mode = s.mode := rfl
@[simp] theorem State.advance_kreg (s : State) : (s.advance).kreg = s.kreg := rfl
@[simp] theorem State.advance_fcause (s : State) : (s.advance).fcause = s.fcause := rfl
@[simp] theorem State.advance_faddr (s : State) : (s.advance).faddr = s.faddr := rfl
@[simp] theorem State.advance_fb (s : State) : (s.advance).fb = s.fb := rfl
@[simp] theorem State.advance_mem (s : State) : (s.advance).mem = s.mem := rfl
@[simp] theorem State.advance_key (s : State) : (s.advance).key = s.key := rfl
@[simp] theorem State.advance_rand (s : State) : (s.advance).rand = s.rand := rfl
@[simp] theorem State.advance_req (s : State) : (s.advance).req = s.req := rfl
@[simp] theorem State.advance_warn (s : State) : (s.advance).warn = s.warn := rfl
@[simp] theorem State.advance_events (s : State) : (s.advance).events = s.events := rfl
@[simp] theorem State.advance_draws (s : State) : (s.advance).draws = s.draws := rfl

/-! ### `skipIf` -/

@[simp] theorem State.skipIf_v (s : State) (c : Bool) : (s.skipIf c).v = s.v := rfl
@[simp] theorem State.skipIf_i (s : State) (c : Bool) : (s.skipIf c).i = s.i := rfl
@[simp] theorem State.skipIf_pc (s : State) (c : Bool) : (s.skipIf c).pc = if c then s.skipPc else s.nextPc := rfl
@[simp] theorem State.skipIf_sp (s : State) (c : Bool) : (s.skipIf c).sp = s.sp := rfl
@[simp] theorem State.skipIf_stack (s : State) (c : Bool) : (s.skipIf c).stack = s.stack := rfl
@[simp] theorem State.skipIf_dt (s : State) (c : Bool) : (s.skipIf c).dt = s.dt := rfl
@[simp] theorem State.skipIf_st (s : State) (c : Bool) : (s.skipIf c).st = s.st := rfl
@[simp] theorem State.skipIf_mode (s : State) (c : Bool) : (s.skipIf c).mode = s.mode := rfl
@[simp] theorem State.skipIf_kreg (s : State) (c : Bool) : (s.skipIf c).kreg = s.kreg := rfl
@[simp] theorem State.skipIf_fcause (s : State) (c : Bool) : (s.skipIf c).fcause = s.fcause := rfl
@[simp] theorem State.skipIf_faddr (s : State) (c : Bool) : (s.skipIf c).faddr = s.faddr := rfl
@[simp] theorem State.skipIf_fb (s : State) (c : Bool) : (s.skipIf c).fb = s.fb := rfl
@[simp] theorem State.skipIf_mem (s : State) (c : Bool) : (s.skipIf c).mem = s.mem := rfl
@[simp] theorem State.skipIf_key (s : State) (c : Bool) : (s.skipIf c).key = s.key := rfl
@[simp] theorem State.skipIf_rand (s : State) (c : Bool) : (s.skipIf c).rand = s.rand := rfl
@[simp] theorem State.skipIf_req (s : State) (c : Bool) : (s.skipIf c).req = s.req := rfl
@[simp] theorem State.skipIf_warn (s : State) (c : Bool) : (s.skipIf c).warn = s.warn := rfl
@[simp] theorem State.skipIf_events (s : State) (c : Bool) : (s.skipIf c).events = s.events := rfl
@[simp] theorem State.skipIf_draws (s : State) (c : Bool) : (s.skipIf c).draws = s.draws := rfl

/-! ### `enterHalt` -/

@[simp] theorem State.enterHalt_v (s : State) (c : Cause) (a : Nat) : (s.enterHalt c a).v = s.v := rfl
@[simp] theorem State.enterHalt_i (s : State) (c : Cause) (a : Nat) : (s.enterHalt c a).i = s.i := rfl
@[simp] theorem State.enterHalt_pc (s : State) (c : Cause) (a : Nat) : (s.enterHalt c a).pc = s.pc := rfl
@[simp] theorem State.enterHalt_sp (s : State) (c : Cause) (a : Nat) : (s.enterHalt c a).sp = s.sp := rfl
@[simp] theorem State.enterHalt_stack (s : State) (c : Cause) (a : Nat) : (s.enterHalt c a).stack = s.stack := rfl
@[simp] theorem State.enterHalt_dt (s : State) (c : Cause) (a : Nat) : (s.enterHalt c a).dt = s.dt := rfl
@[simp] theorem State.enterHalt_st (s : State) (c : Cause) (a : Nat) : (s.enterHalt c a).st = s.st := rfl
@[simp] theorem State.enterHalt_mode (s : State) (c : Cause) (a : Nat) : (s.enterHalt c a).mode = .halted := rfl
@[simp] theorem State.enterHalt_kreg (s : State) (c : Cause) (a : Nat) : (s.enterHalt c a).kreg = s.kreg := rfl
@[simp] theorem State.enterHalt_fcause (s : State) (c : Cause) (a : Nat) : (s.enterHalt c a).fcause = c := rfl
@[simp] theorem State.enterHalt_faddr (s : State) (c : Cause) (a : Nat) : (s.enterHalt c a).faddr = BitVec.ofNat 17 a := rfl
@[simp] theorem State.enterHalt_fb (s : State) (c : Cause) (a : Nat) : (s.enterHalt c a).fb = s.fb := rfl
@[simp] theorem State.enterHalt_mem (s : State) (c : Cause) (a : Nat) : (s.enterHalt c a).mem = s.mem := rfl
@[simp] theorem State.enterHalt_key (s : State) (c : Cause) (a : Nat) : (s.enterHalt c a).key = s.key := rfl
@[simp] theorem State.enterHalt_rand (s : State) (c : Cause) (a : Nat) : (s.enterHalt c a).rand = s.rand := rfl
@[simp] theorem State.enterHalt_req (s : State) (c : Cause) (a : Nat) : (s.enterHalt c a).req = .none := rfl
@[simp] theorem State.enterHalt_warn (s : State) (c : Cause) (a : Nat) : (s.enterHalt c a).warn = none := rfl
@[simp] theorem State.enterHalt_events (s : State) (c : Cause) (a : Nat) : (s.enterHalt c a).events = s.events := rfl
@[simp] theorem State.enterHalt_draws (s : State) (c : Cause) (a : Nat) : (s.enterHalt c a).draws = s.draws := rfl

/-! ### `push` -/

@[simp] theorem State.push_v (s : State) (w : Word) (h : s.sp.toNat < Config.stackDepth) : (s.push w h).v = s.v := rfl
@[simp] theorem State.push_i (s : State) (w : Word) (h : s.sp.toNat < Config.stackDepth) : (s.push w h).i = s.i := rfl
@[simp] theorem State.push_pc (s : State) (w : Word) (h : s.sp.toNat < Config.stackDepth) : (s.push w h).pc = s.pc := rfl
@[simp] theorem State.push_sp (s : State) (w : Word) (h : s.sp.toNat < Config.stackDepth) : (s.push w h).sp = s.sp + 1#8 := rfl
@[simp] theorem State.push_stack (s : State) (w : Word) (h : s.sp.toNat < Config.stackDepth) : (s.push w h).stack = s.stack.set s.sp.toNat w h := rfl
@[simp] theorem State.push_dt (s : State) (w : Word) (h : s.sp.toNat < Config.stackDepth) : (s.push w h).dt = s.dt := rfl
@[simp] theorem State.push_st (s : State) (w : Word) (h : s.sp.toNat < Config.stackDepth) : (s.push w h).st = s.st := rfl
@[simp] theorem State.push_mode (s : State) (w : Word) (h : s.sp.toNat < Config.stackDepth) : (s.push w h).mode = s.mode := rfl
@[simp] theorem State.push_kreg (s : State) (w : Word) (h : s.sp.toNat < Config.stackDepth) : (s.push w h).kreg = s.kreg := rfl
@[simp] theorem State.push_fcause (s : State) (w : Word) (h : s.sp.toNat < Config.stackDepth) : (s.push w h).fcause = s.fcause := rfl
@[simp] theorem State.push_faddr (s : State) (w : Word) (h : s.sp.toNat < Config.stackDepth) : (s.push w h).faddr = s.faddr := rfl
@[simp] theorem State.push_fb (s : State) (w : Word) (h : s.sp.toNat < Config.stackDepth) : (s.push w h).fb = s.fb := rfl
@[simp] theorem State.push_mem (s : State) (w : Word) (h : s.sp.toNat < Config.stackDepth) : (s.push w h).mem = s.mem := rfl
@[simp] theorem State.push_key (s : State) (w : Word) (h : s.sp.toNat < Config.stackDepth) : (s.push w h).key = s.key := rfl
@[simp] theorem State.push_rand (s : State) (w : Word) (h : s.sp.toNat < Config.stackDepth) : (s.push w h).rand = s.rand := rfl
@[simp] theorem State.push_req (s : State) (w : Word) (h : s.sp.toNat < Config.stackDepth) : (s.push w h).req = s.req := rfl
@[simp] theorem State.push_warn (s : State) (w : Word) (h : s.sp.toNat < Config.stackDepth) : (s.push w h).warn = s.warn := rfl
@[simp] theorem State.push_events (s : State) (w : Word) (h : s.sp.toNat < Config.stackDepth) : (s.push w h).events = s.events := rfl
@[simp] theorem State.push_draws (s : State) (w : Word) (h : s.sp.toNat < Config.stackDepth) : (s.push w h).draws = s.draws := rfl

/-! ### `pop` -/

@[simp] theorem State.pop_v (s : State) : (s.pop).v = s.v := rfl
@[simp] theorem State.pop_i (s : State) : (s.pop).i = s.i := rfl
@[simp] theorem State.pop_pc (s : State) : (s.pop).pc = s.pc := rfl
@[simp] theorem State.pop_sp (s : State) : (s.pop).sp = s.sp - 1#8 := rfl
@[simp] theorem State.pop_stack (s : State) : (s.pop).stack = s.stack := rfl
@[simp] theorem State.pop_dt (s : State) : (s.pop).dt = s.dt := rfl
@[simp] theorem State.pop_st (s : State) : (s.pop).st = s.st := rfl
@[simp] theorem State.pop_mode (s : State) : (s.pop).mode = s.mode := rfl
@[simp] theorem State.pop_kreg (s : State) : (s.pop).kreg = s.kreg := rfl
@[simp] theorem State.pop_fcause (s : State) : (s.pop).fcause = s.fcause := rfl
@[simp] theorem State.pop_faddr (s : State) : (s.pop).faddr = s.faddr := rfl
@[simp] theorem State.pop_fb (s : State) : (s.pop).fb = s.fb := rfl
@[simp] theorem State.pop_mem (s : State) : (s.pop).mem = s.mem := rfl
@[simp] theorem State.pop_key (s : State) : (s.pop).key = s.key := rfl
@[simp] theorem State.pop_rand (s : State) : (s.pop).rand = s.rand := rfl
@[simp] theorem State.pop_req (s : State) : (s.pop).req = s.req := rfl
@[simp] theorem State.pop_warn (s : State) : (s.pop).warn = s.warn := rfl
@[simp] theorem State.pop_events (s : State) : (s.pop).events = s.events := rfl
@[simp] theorem State.pop_draws (s : State) : (s.pop).draws = s.draws := rfl

/-! ### `beginStep` -/

@[simp] theorem State.beginStep_v (s : State) (k : Option Nibble) (r : Byte) : (s.beginStep k r).v = s.v := rfl
@[simp] theorem State.beginStep_i (s : State) (k : Option Nibble) (r : Byte) : (s.beginStep k r).i = s.i := rfl
@[simp] theorem State.beginStep_pc (s : State) (k : Option Nibble) (r : Byte) : (s.beginStep k r).pc = s.pc := rfl
@[simp] theorem State.beginStep_sp (s : State) (k : Option Nibble) (r : Byte) : (s.beginStep k r).sp = s.sp := rfl
@[simp] theorem State.beginStep_stack (s : State) (k : Option Nibble) (r : Byte) : (s.beginStep k r).stack = s.stack := rfl
@[simp] theorem State.beginStep_dt (s : State) (k : Option Nibble) (r : Byte) : (s.beginStep k r).dt = s.dt := rfl
@[simp] theorem State.beginStep_st (s : State) (k : Option Nibble) (r : Byte) : (s.beginStep k r).st = s.st := rfl
@[simp] theorem State.beginStep_mode (s : State) (k : Option Nibble) (r : Byte) : (s.beginStep k r).mode = s.mode := rfl
@[simp] theorem State.beginStep_kreg (s : State) (k : Option Nibble) (r : Byte) : (s.beginStep k r).kreg = s.kreg := rfl
@[simp] theorem State.beginStep_fcause (s : State) (k : Option Nibble) (r : Byte) : (s.beginStep k r).fcause = s.fcause := rfl
@[simp] theorem State.beginStep_faddr (s : State) (k : Option Nibble) (r : Byte) : (s.beginStep k r).faddr = s.faddr := rfl
@[simp] theorem State.beginStep_fb (s : State) (k : Option Nibble) (r : Byte) : (s.beginStep k r).fb = s.fb := rfl
@[simp] theorem State.beginStep_mem (s : State) (k : Option Nibble) (r : Byte) : (s.beginStep k r).mem = s.mem := rfl
@[simp] theorem State.beginStep_key (s : State) (k : Option Nibble) (r : Byte) : (s.beginStep k r).key = k := rfl
@[simp] theorem State.beginStep_rand (s : State) (k : Option Nibble) (r : Byte) : (s.beginStep k r).rand = r := rfl
@[simp] theorem State.beginStep_req (s : State) (k : Option Nibble) (r : Byte) : (s.beginStep k r).req = .none := rfl
@[simp] theorem State.beginStep_warn (s : State) (k : Option Nibble) (r : Byte) : (s.beginStep k r).warn = none := rfl
@[simp] theorem State.beginStep_events (s : State) (k : Option Nibble) (r : Byte) : (s.beginStep k r).events = s.events := rfl
@[simp] theorem State.beginStep_draws (s : State) (k : Option Nibble) (r : Byte) : (s.beginStep k r).draws = s.draws := rfl

/-! ### `tick` -/

@[simp] theorem State.tick_v (s : State) : (s.tick).v = s.v := rfl
@[simp] theorem State.tick_i (s : State) : (s.tick).i = s.i := rfl
@[simp] theorem State.tick_pc (s : State) : (s.tick).pc = s.pc := rfl
@[simp] theorem State.tick_sp (s : State) : (s.tick).sp = s.sp := rfl
@[simp] theorem State.tick_stack (s : State) : (s.tick).stack = s.stack := rfl
@[simp] theorem State.tick_dt (s : State) : (s.tick).dt = countDown s.dt := rfl
@[simp] theorem State.tick_st (s : State) : (s.tick).st = countDown s.st := rfl
@[simp] theorem State.tick_mode (s : State) : (s.tick).mode = s.mode := rfl
@[simp] theorem State.tick_kreg (s : State) : (s.tick).kreg = s.kreg := rfl
@[simp] theorem State.tick_fcause (s : State) : (s.tick).fcause = s.fcause := rfl
@[simp] theorem State.tick_faddr (s : State) : (s.tick).faddr = s.faddr := rfl
@[simp] theorem State.tick_fb (s : State) : (s.tick).fb = s.fb := rfl
@[simp] theorem State.tick_mem (s : State) : (s.tick).mem = s.mem := rfl
@[simp] theorem State.tick_key (s : State) : (s.tick).key = s.key := rfl
@[simp] theorem State.tick_rand (s : State) : (s.tick).rand = s.rand := rfl
@[simp] theorem State.tick_req (s : State) : (s.tick).req = s.req := rfl
@[simp] theorem State.tick_warn (s : State) : (s.tick).warn = s.warn := rfl
@[simp] theorem State.tick_events (s : State) : (s.tick).events = s.events := rfl
@[simp] theorem State.tick_draws (s : State) : (s.tick).draws = s.draws := rfl

/-! ### `resetEvent` -/

@[simp] theorem State.resetEvent_v (s : State) : (s.resetEvent).v = State.reset.v := rfl
@[simp] theorem State.resetEvent_i (s : State) : (s.resetEvent).i = State.reset.i := rfl
@[simp] theorem State.resetEvent_pc (s : State) : (s.resetEvent).pc = State.reset.pc := rfl
@[simp] theorem State.resetEvent_sp (s : State) : (s.resetEvent).sp = State.reset.sp := rfl
@[simp] theorem State.resetEvent_stack (s : State) : (s.resetEvent).stack = State.reset.stack := rfl
@[simp] theorem State.resetEvent_dt (s : State) : (s.resetEvent).dt = State.reset.dt := rfl
@[simp] theorem State.resetEvent_st (s : State) : (s.resetEvent).st = State.reset.st := rfl
@[simp] theorem State.resetEvent_mode (s : State) : (s.resetEvent).mode = State.reset.mode := rfl
@[simp] theorem State.resetEvent_kreg (s : State) : (s.resetEvent).kreg = State.reset.kreg := rfl
@[simp] theorem State.resetEvent_fcause (s : State) : (s.resetEvent).fcause = State.reset.fcause := rfl
@[simp] theorem State.resetEvent_faddr (s : State) : (s.resetEvent).faddr = State.reset.faddr := rfl
@[simp] theorem State.resetEvent_fb (s : State) : (s.resetEvent).fb = State.reset.fb := rfl
@[simp] theorem State.resetEvent_mem (s : State) : (s.resetEvent).mem = s.mem := rfl
@[simp] theorem State.resetEvent_key (s : State) : (s.resetEvent).key = State.reset.key := rfl
@[simp] theorem State.resetEvent_rand (s : State) : (s.resetEvent).rand = State.reset.rand := rfl
@[simp] theorem State.resetEvent_req (s : State) : (s.resetEvent).req = State.reset.req := rfl
@[simp] theorem State.resetEvent_warn (s : State) : (s.resetEvent).warn = State.reset.warn := rfl
@[simp] theorem State.resetEvent_events (s : State) : (s.resetEvent).events = s.events := rfl
@[simp] theorem State.resetEvent_draws (s : State) : (s.resetEvent).draws = s.draws := rfl

/-! ### `writePlain` -/

@[simp] theorem State.writePlain_v (s : State) (x : Reg) (b : Byte) : (s.writePlain x b).v = s.v.set x.toNat b x.isLt := rfl
@[simp] theorem State.writePlain_i (s : State) (x : Reg) (b : Byte) : (s.writePlain x b).i = s.i := rfl
@[simp] theorem State.writePlain_pc (s : State) (x : Reg) (b : Byte) : (s.writePlain x b).pc = s.nextPc := rfl
@[simp] theorem State.writePlain_sp (s : State) (x : Reg) (b : Byte) : (s.writePlain x b).sp = s.sp := rfl
@[simp] theorem State.writePlain_stack (s : State) (x : Reg) (b : Byte) : (s.writePlain x b).stack = s.stack := rfl
@[simp] theorem State.writePlain_dt (s : State) (x : Reg) (b : Byte) : (s.writePlain x b).dt = s.dt := rfl
@[simp] theorem State.writePlain_st (s : State) (x : Reg) (b : Byte) : (s.writePlain x b).st = s.st := rfl
@[simp] theorem State.writePlain_mode (s : State) (x : Reg) (b : Byte) : (s.writePlain x b).mode = s.mode := rfl
@[simp] theorem State.writePlain_kreg (s : State) (x : Reg) (b : Byte) : (s.writePlain x b).kreg = s.kreg := rfl
@[simp] theorem State.writePlain_fcause (s : State) (x : Reg) (b : Byte) : (s.writePlain x b).fcause = s.fcause := rfl
@[simp] theorem State.writePlain_faddr (s : State) (x : Reg) (b : Byte) : (s.writePlain x b).faddr = s.faddr := rfl
@[simp] theorem State.writePlain_fb (s : State) (x : Reg) (b : Byte) : (s.writePlain x b).fb = s.fb := rfl
@[simp] theorem State.writePlain_mem (s : State) (x : Reg) (b : Byte) : (s.writePlain x b).mem = s.mem := rfl
@[simp] theorem State.writePlain_key (s : State) (x : Reg) (b : Byte) : (s.writePlain x b).key = s.key := rfl
@[simp] theorem State.writePlain_rand (s : State) (x : Reg) (b : Byte) : (s.writePlain x b).rand = s.rand := rfl
@[simp] theorem State.writePlain_req (s : State) (x : Reg) (b : Byte) : (s.writePlain x b).req = s.req := rfl
@[simp] theorem State.writePlain_warn (s : State) (x : Reg) (b : Byte) : (s.writePlain x b).warn = s.warn := rfl
@[simp] theorem State.writePlain_events (s : State) (x : Reg) (b : Byte) : (s.writePlain x b).events = s.events := rfl
@[simp] theorem State.writePlain_draws (s : State) (x : Reg) (b : Byte) : (s.writePlain x b).draws = s.draws := rfl

/-! ### `writeFlagged` -/

@[simp] theorem State.writeFlagged_v (s : State) (x : Reg) (b f : Byte) : (s.writeFlagged x b f).v = ((s.setV x b).setV vf f).v := rfl
@[simp] theorem State.writeFlagged_i (s : State) (x : Reg) (b f : Byte) : (s.writeFlagged x b f).i = s.i := rfl
@[simp] theorem State.writeFlagged_pc (s : State) (x : Reg) (b f : Byte) : (s.writeFlagged x b f).pc = s.nextPc := rfl
@[simp] theorem State.writeFlagged_sp (s : State) (x : Reg) (b f : Byte) : (s.writeFlagged x b f).sp = s.sp := rfl
@[simp] theorem State.writeFlagged_stack (s : State) (x : Reg) (b f : Byte) : (s.writeFlagged x b f).stack = s.stack := rfl
@[simp] theorem State.writeFlagged_dt (s : State) (x : Reg) (b f : Byte) : (s.writeFlagged x b f).dt = s.dt := rfl
@[simp] theorem State.writeFlagged_st (s : State) (x : Reg) (b f : Byte) : (s.writeFlagged x b f).st = s.st := rfl
@[simp] theorem State.writeFlagged_mode (s : State) (x : Reg) (b f : Byte) : (s.writeFlagged x b f).mode = s.mode := rfl
@[simp] theorem State.writeFlagged_kreg (s : State) (x : Reg) (b f : Byte) : (s.writeFlagged x b f).kreg = s.kreg := rfl
@[simp] theorem State.writeFlagged_fcause (s : State) (x : Reg) (b f : Byte) : (s.writeFlagged x b f).fcause = s.fcause := rfl
@[simp] theorem State.writeFlagged_faddr (s : State) (x : Reg) (b f : Byte) : (s.writeFlagged x b f).faddr = s.faddr := rfl
@[simp] theorem State.writeFlagged_fb (s : State) (x : Reg) (b f : Byte) : (s.writeFlagged x b f).fb = s.fb := rfl
@[simp] theorem State.writeFlagged_mem (s : State) (x : Reg) (b f : Byte) : (s.writeFlagged x b f).mem = s.mem := rfl
@[simp] theorem State.writeFlagged_key (s : State) (x : Reg) (b f : Byte) : (s.writeFlagged x b f).key = s.key := rfl
@[simp] theorem State.writeFlagged_rand (s : State) (x : Reg) (b f : Byte) : (s.writeFlagged x b f).rand = s.rand := rfl
@[simp] theorem State.writeFlagged_req (s : State) (x : Reg) (b f : Byte) : (s.writeFlagged x b f).req = s.req := rfl
@[simp] theorem State.writeFlagged_warn (s : State) (x : Reg) (b f : Byte) : (s.writeFlagged x b f).warn = s.warn := rfl
@[simp] theorem State.writeFlagged_events (s : State) (x : Reg) (b f : Byte) : (s.writeFlagged x b f).events = s.events := rfl
@[simp] theorem State.writeFlagged_draws (s : State) (x : Reg) (b f : Byte) : (s.writeFlagged x b f).draws = s.draws := rfl

/-! ### `execUndef` -/

@[simp] theorem execUndef_v (w : Word) (s : State) : (execUndef w s).v = s.v := rfl
@[simp] theorem execUndef_i (w : Word) (s : State) : (execUndef w s).i = s.i := rfl
@[simp] theorem execUndef_pc (w : Word) (s : State) : (execUndef w s).pc = s.nextPc := rfl
@[simp] theorem execUndef_sp (w : Word) (s : State) : (execUndef w s).sp = s.sp := rfl
@[simp] theorem execUndef_stack (w : Word) (s : State) : (execUndef w s).stack = s.stack := rfl
@[simp] theorem execUndef_dt (w : Word) (s : State) : (execUndef w s).dt = s.dt := rfl
@[simp] theorem execUndef_st (w : Word) (s : State) : (execUndef w s).st = s.st := rfl
@[simp] theorem execUndef_mode (w : Word) (s : State) : (execUndef w s).mode = s.mode := rfl
@[simp] theorem execUndef_kreg (w : Word) (s : State) : (execUndef w s).kreg = s.kreg := rfl
@[simp] theorem execUndef_fcause (w : Word) (s : State) : (execUndef w s).fcause = s.fcause := rfl
@[simp] theorem execUndef_faddr (w : Word) (s : State) : (execUndef w s).faddr = s.faddr := rfl
@[simp] theorem execUndef_fb (w : Word) (s : State) : (execUndef w s).fb = s.fb := rfl
@[simp] theorem execUndef_mem (w : Word) (s : State) : (execUndef w s).mem = s.mem := rfl
@[simp] theorem execUndef_key (w : Word) (s : State) : (execUndef w s).key = s.key := rfl
@[simp] theorem execUndef_rand (w : Word) (s : State) : (execUndef w s).rand = s.rand := rfl
@[simp] theorem execUndef_req (w : Word) (s : State) : (execUndef w s).req = s.req := rfl
@[simp] theorem execUndef_warn (w : Word) (s : State) : (execUndef w s).warn = some w := rfl
@[simp] theorem execUndef_events (w : Word) (s : State) : (execUndef w s).events = s.events := rfl
@[simp] theorem execUndef_draws (w : Word) (s : State) : (execUndef w s).draws = s.draws := rfl

/-! ### `takeEvent`: it takes one event of the schedule, or one free event, and touches nothing else -/

@[simp] theorem State.takeEvent_v (s : State) : s.takeEvent.v = s.v := by unfold State.takeEvent; split <;> rfl
@[simp] theorem State.takeEvent_i (s : State) : s.takeEvent.i = s.i := by unfold State.takeEvent; split <;> rfl
@[simp] theorem State.takeEvent_pc (s : State) : s.takeEvent.pc = s.pc := by unfold State.takeEvent; split <;> rfl
@[simp] theorem State.takeEvent_sp (s : State) : s.takeEvent.sp = s.sp := by unfold State.takeEvent; split <;> rfl
@[simp] theorem State.takeEvent_stack (s : State) : s.takeEvent.stack = s.stack := by unfold State.takeEvent; split <;> rfl
@[simp] theorem State.takeEvent_dt (s : State) : s.takeEvent.dt = s.dt := by unfold State.takeEvent; split <;> rfl
@[simp] theorem State.takeEvent_st (s : State) : s.takeEvent.st = s.st := by unfold State.takeEvent; split <;> rfl
@[simp] theorem State.takeEvent_mode (s : State) : s.takeEvent.mode = s.mode := by unfold State.takeEvent; split <;> rfl
@[simp] theorem State.takeEvent_kreg (s : State) : s.takeEvent.kreg = s.kreg := by unfold State.takeEvent; split <;> rfl
@[simp] theorem State.takeEvent_fcause (s : State) : s.takeEvent.fcause = s.fcause := by unfold State.takeEvent; split <;> rfl
@[simp] theorem State.takeEvent_faddr (s : State) : s.takeEvent.faddr = s.faddr := by unfold State.takeEvent; split <;> rfl
@[simp] theorem State.takeEvent_fb (s : State) : s.takeEvent.fb = s.fb := by unfold State.takeEvent; split <;> rfl
@[simp] theorem State.takeEvent_mem (s : State) : s.takeEvent.mem = s.mem := by unfold State.takeEvent; split <;> rfl
@[simp] theorem State.takeEvent_key (s : State) : s.takeEvent.key = s.key := by unfold State.takeEvent; split <;> rfl
@[simp] theorem State.takeEvent_rand (s : State) : s.takeEvent.rand = s.rand := by unfold State.takeEvent; split <;> rfl
@[simp] theorem State.takeEvent_req (s : State) : s.takeEvent.req = s.req := by unfold State.takeEvent; split <;> rfl
@[simp] theorem State.takeEvent_warn (s : State) : s.takeEvent.warn = s.warn := by unfold State.takeEvent; split <;> rfl

theorem State.takeEvent_events (s : State) : s.takeEvent.events = s.events.tail := by
  unfold State.takeEvent; split <;> simp_all

theorem State.takeEvent_cons (s : State) (e : Event) (es : List Event) (h : s.events = e :: es) :
    s.takeEvent = { s with events := es } := by
  unfold State.takeEvent; rw [h]

theorem State.takeEvent_nil (s : State) (h : s.events = []) : s.takeEvent = { s with draws := s.draws + 1 } := by
  unfold State.takeEvent; rw [h]

theorem State.nextEvent_cons (s : State) (e : Event) (es : List Event) (h : s.events = e :: es) : s.nextEvent = e := by
  unfold State.nextEvent; rw [h]

theorem State.nextEvent_nil (s : State) (h : s.events = []) :
    s.nextEvent = Config.freeEvent s.draws := by
  unfold State.nextEvent; rw [h]

/-! ### What is read of memory and `pc` depends on those two fields alone -/

theorem State.readByte_congr {s t : State} (h : t.mem = s.mem) (a : Nat) : t.readByte a = s.readByte a := by
  simp [State.readByte, h]

theorem State.fetchWord_congr {s t : State} (hm : t.mem = s.mem) (hp : t.pc = s.pc) : t.fetchWord = s.fetchWord := by
  simp [State.fetchWord, hm, hp]

theorem State.fetchable_congr {s t : State} (hp : t.pc = s.pc) : t.fetchable = s.fetchable := by
  simp [State.fetchable, hp]

theorem State.getV_congr {s t : State} (h : t.v = s.v) (j : Reg) : t.getV j = s.getV j := by
  simp [State.getV, h]

end Sys2Proof.Machine
end

