-- ==== Sys2Proof/Laws/Memory.lean ====
section
/-! SUPPORT. Memory: read after write, and that every memory operation keeps the canonical form (20_memory.md R65, R72). -/

namespace Sys2Proof.Machine

@[simp] theorem Memory.read_nil (a : Nat) : Memory.read [] a = unwrittenByte := rfl

theorem Memory.read_cons (k : Nat) (v : Byte) (m : Memory) (a : Nat) :
    Memory.read ((k, v) :: m) a = if k = a then v else Memory.read m a := rfl

theorem Memory.wfFrom_cons {hi lo k : Nat} {v : Byte} {m : Memory} :
    Memory.wfFrom hi lo ((k, v) :: m) = true ↔ lo ≤ k ∧ k < hi ∧ v ≠ unwrittenByte ∧ Memory.wfFrom hi (k + 1) m = true := by
  simp [Memory.wfFrom, and_assoc]

/-- The lower bound of a canonical list may be lowered. -/
theorem Memory.wfFrom_mono {hi lo lo' : Nat} {m : Memory} (h : lo' ≤ lo) (hw : Memory.wfFrom hi lo m = true) :
    Memory.wfFrom hi lo' m = true := by
  cases m with
  | nil => rfl
  | cons c rest =>
    obtain ⟨k, v⟩ := c
    rw [Memory.wfFrom_cons] at hw ⊢
    exact ⟨h.trans hw.1, hw.2⟩

/-- Below its lower bound a canonical list has nothing. -/
theorem Memory.read_below {hi lo a : Nat} {m : Memory} (hw : Memory.wfFrom hi lo m = true) (ha : a < lo) :
    Memory.read m a = unwrittenByte := by
  induction m generalizing lo with
  | nil => rfl
  | cons c rest ih =>
    obtain ⟨k, v⟩ := c
    rw [Memory.wfFrom_cons] at hw
    rw [Memory.read_cons, if_neg (by omega)]
    exact ih hw.2.2.2 (by omega)

/-- A write keeps the canonical form. -/
theorem Memory.wfFrom_write {hi lo a : Nat} {b : Byte} {m : Memory} (hw : Memory.wfFrom hi lo m = true) (hl : lo ≤ a)
    (ha : a < hi) : Memory.wfFrom hi lo (Memory.write m a b) = true := by
  induction m generalizing lo with
  | nil =>
    unfold Memory.write
    split
    · rfl
    · exact Memory.wfFrom_cons.mpr ⟨hl, ha, ‹_›, rfl⟩
  | cons c rest ih =>
    obtain ⟨k, v⟩ := c
    have hc := Memory.wfFrom_cons.mp hw
    unfold Memory.write
    split
    · split
      · exact hw
      · exact Memory.wfFrom_cons.mpr ⟨hl, ha, ‹_›, Memory.wfFrom_cons.mpr ⟨by omega, hc.2⟩⟩
    · split
      · split
        · exact Memory.wfFrom_mono (by omega) hc.2.2.2
        · exact Memory.wfFrom_cons.mpr ⟨hl, ha, ‹_›, Memory.wfFrom_mono (by omega) hc.2.2.2⟩
      · exact Memory.wfFrom_cons.mpr ⟨hc.1, hc.2.1, hc.2.2.1, ih hc.2.2.2 (by omega)⟩

/-- Read after write: the written cell gives the byte, every other cell what it gave. -/
theorem Memory.read_write_from {hi lo : Nat} {m : Memory} (hw : Memory.wfFrom hi lo m = true) (a : Nat) (b : Byte) (c : Nat) :
    Memory.read (Memory.write m a b) c = if c = a then b else Memory.read m c := by
  induction m generalizing lo with
  | nil =>
    unfold Memory.write
    by_cases h : c = a
    · split <;> simp [*, Memory.read_cons]
    · split <;> simp [Ne.symm h, Memory.read_cons]
  | cons e rest ih =>
    obtain ⟨k, v⟩ := e
    have hc := Memory.wfFrom_cons.mp hw
    have hr : ∀ a', a' < k + 1 → Memory.read rest a' = unwrittenByte := fun a' h => Memory.read_below hc.2.2.2 h
    unfold Memory.write
    split
    · split
      · by_cases h : c = a
        · subst h; simp_all [Memory.read_cons]; rw [if_neg (by omega)]; exact hr _ (by omega)
        · simp [h]
      · by_cases h : c = a
        · simp [h, Memory.read_cons]
        · simp [h, Ne.symm h, Memory.read_cons]
    · split
      · split
        · by_cases h : c = a
          · subst h; simp_all
          · simp only [h, if_false, Memory.read_cons]; rw [if_neg (by omega)]
        · by_cases h : c = a
          · simp [h, Memory.read_cons]
          · have hk : k ≠ c := by omega
            simp [h, hk, Ne.symm h, Memory.read_cons]
      · simp only [Memory.read_cons, ih hc.2.2.2]
        by_cases h : k = c
        · have : c ≠ a := by omega
          simp [h, this]
        · simp [h]

theorem Memory.wf_nil : Memory.wf [] = true := rfl

theorem Memory.wf_write {m : Memory} {a : Nat} {b : Byte} (hw : Memory.wf m = true) (ha : a < Config.memSize) :
    Memory.wf (Memory.write m a b) = true := Memory.wfFrom_write hw (Nat.zero_le a) ha

theorem Memory.read_write {m : Memory} (hw : Memory.wf m = true) (a : Nat) (b : Byte) (c : Nat) :
    Memory.read (Memory.write m a b) c = if c = a then b else Memory.read m c := Memory.read_write_from hw a b c

/-- Writing consecutive bytes below N keeps the canonical form. -/
theorem Memory.wf_writeBytes {m : Memory} {a : Nat} {bs : List Byte} (hw : Memory.wf m = true)
    (ha : bs = [] ∨ a + bs.length ≤ Config.memSize) : Memory.wf (Memory.writeBytes m a bs) = true := by
  induction bs generalizing m a with
  | nil => exact hw
  | cons b bs ih =>
    simp only [reduceCtorEq, List.length_cons, false_or] at ha
    exact ih (Memory.wf_write hw (by omega)) (.inr (by omega))

/-- Reading after consecutive bytes were written: inside them the byte of that place, outside what was there. -/
theorem Memory.read_writeBytes {m : Memory} {a : Nat} {bs : List Byte} (hw : Memory.wf m = true)
    (ha : bs = [] ∨ a + bs.length ≤ Config.memSize) (c : Nat) :
    Memory.read (Memory.writeBytes m a bs) c =
      if h : a ≤ c ∧ c < a + bs.length then bs[c - a]'(by omega) else Memory.read m c := by
  induction bs generalizing m a with
  | nil => simp only [Memory.writeBytes, List.length_nil]; rw [dif_neg (by omega)]
  | cons b bs ih =>
    simp only [reduceCtorEq, List.length_cons, false_or] at ha
    rw [Memory.writeBytes, ih (Memory.wf_write hw (by omega)) (.inr (by omega)), Memory.read_write hw]
    simp only [List.length_cons]
    by_cases h1 : a + 1 ≤ c ∧ c < a + 1 + bs.length
    · rw [dif_pos h1, dif_pos (by omega)]
      have : c - a = (c - (a + 1)) + 1 := by omega
      simp [this]
    · rw [dif_neg h1]
      by_cases h2 : c = a
      · subst h2; simp
      · rw [if_neg h2, dif_neg (by omega)]

@[simp] theorem Memory.length_readBytes (m : Memory) (a n : Nat) : (Memory.readBytes m a n).length = n := by
  induction n generalizing a with
  | zero => rfl
  | succ n ih => simp [Memory.readBytes, ih]

theorem Memory.getElem_readBytes (m : Memory) (a n k : Nat) (h : k < (Memory.readBytes m a n).length) :
    (Memory.readBytes m a n)[k] = Memory.read m (a + k) := by
  induction n generalizing a k with
  | zero => simp at h
  | succ n ih =>
    cases k with
    | zero => rfl
    | succ k => simp only [Memory.readBytes, List.getElem_cons_succ]; rw [ih]; congr 1; omega

end Sys2Proof.Machine
end

