-- ==== Sys2Proof/Laws/Registers.lean ====
section
/-! SUPPORT. Registers and operands: read after write, the block forms, the flag values (10_state.md R20 to R22). -/

namespace Sys2Proof.Machine

theorem Reg.toNat_inj {x y : Reg} : x.toNat = y.toNat ↔ x = y := BitVec.toNat_inj

/-- A register read after a register write. -/
@[simp] theorem State.getV_setV (s : State) (x y : Reg) (b : Byte) : (s.setV x b).getV y = if y = x then b else s.getV y := by
  simp only [State.getV, State.setV, Vector.getElem_set, Reg.toNat_inj, eq_comm]

@[simp] theorem State.getV_setPc (s : State) (t : Word) (j : Reg) : (s.setPc t).getV j = s.getV j := rfl

@[simp] theorem State.getV_advance (s : State) (j : Reg) : s.advance.getV j = s.getV j := rfl

@[simp] theorem State.getV_skipIf (s : State) (c : Bool) (j : Reg) : (s.skipIf c).getV j = s.getV j := rfl

@[simp] theorem State.getV_enterHalt (s : State) (c : Cause) (a : Nat) (j : Reg) : (s.enterHalt c a).getV j = s.getV j := rfl

@[simp] theorem State.getV_beginStep (s : State) (k : Option Nibble) (r : Byte) (j : Reg) : (s.beginStep k r).getV j = s.getV j := rfl

@[simp] theorem State.getV_takeEvent (s : State) (j : Reg) : s.takeEvent.getV j = s.getV j := State.getV_congr (by simp) j

/-- A plain write of a result. -/
@[simp] theorem State.getV_writePlain (s : State) (x j : Reg) (b : Byte) :
    (s.writePlain x b).getV j = if j = x then b else s.getV j := by
  simp [State.writePlain]

/-- A write of a result and its flag: the flag is last, so it is what `VF` holds (R10). -/
@[simp] theorem State.getV_writeFlagged (s : State) (x j : Reg) (b f : Byte) :
    (s.writeFlagged x b f).getV j = if j = vf then f else if j = x then b else s.getV j := by
  simp [State.writeFlagged]

/-- A flag is 0 or 1 (R143). -/
theorem flagByte_eq (c : Bool) : flagByte c = 0#8 ∨ flagByte c = 1#8 := by cases c <;> decide

theorem shiftedOutLow_eq (a : Byte) : shiftedOutLow a = flagByte (a.getLsbD 0) := by revert a; decide

theorem shiftedOutHigh_eq (a : Byte) : shiftedOutHigh a = flagByte (a.getLsbD 7) := by revert a; decide

/-- The block write of registers. -/
theorem getElem_putRegs (v : Vector Byte Config.numRegs) (k : Nat) (bs : List Byte) (j : Nat) (hj : j < Config.numRegs) :
    (putRegs v k bs)[j]'hj = if h : k ≤ j ∧ j < k + bs.length then bs[j - k]'(by omega) else v[j]'hj := by
  induction bs generalizing v k with
  | nil => simp only [putRegs, List.length_nil]; rw [dif_neg (by omega)]
  | cons b bs ih =>
    rw [putRegs, ih, Vector.getElem_setIfInBounds]
    simp only [List.length_cons]
    by_cases h1 : k + 1 ≤ j ∧ j < k + 1 + bs.length
    · rw [dif_pos h1, dif_pos (by omega)]
      have : j - k = (j - (k + 1)) + 1 := by omega
      simp [this]
    · rw [dif_neg h1]
      by_cases h2 : k = j
      · subst h2; simp
      · rw [if_neg h2, dif_neg (by omega)]

@[simp] theorem State.length_regsThrough (s : State) (x : Reg) : (s.regsThrough x).length = x.toNat + 1 := by
  have := x.isLt
  simp only [State.regsThrough, List.length_take, Vector.length_toList, Config.numRegs]
  omega

theorem State.getElem_regsThrough (s : State) (x j : Reg) (h : j.toNat < (s.regsThrough x).length) :
    (s.regsThrough x)[j.toNat] = s.getV j := by
  simp [State.regsThrough, State.getV]

@[simp] theorem length_bcdDigits (b : Byte) : (bcdDigits b).length = 3 := rfl

end Sys2Proof.Machine
end

