-- ==== Sys2Proof/Laws/Framebuffer.lean ====
section
/-! SUPPORT. The framebuffer: pixel after set, the blank screen, one plotted bit (43_display.md R160 to R162). -/

namespace Sys2Proof.Machine

/-- A pixel read after a pixel write. -/
theorem Framebuffer.pixel_setPixel (fb : Framebuffer) (r r' : Fin Config.fbHeight) (c c' : Fin Config.fbWidth) (b : Bool) :
    (fb.setPixel r c b).pixel r' c' = if r' = r ∧ c' = c then b else fb.pixel r' c' := by
  simp only [Framebuffer.pixel, Framebuffer.setPixel, Vector.getElem_set]
  by_cases hr : r' = r
  · subst hr
    simp only [if_true, Vector.getElem_set]
    by_cases hc : c' = c
    · subst hc; simp
    · simp [hc, Fin.val_ne_of_ne (Ne.symm hc)]
  · simp [hr, Fin.val_ne_of_ne (Ne.symm hr)]

@[simp] theorem Framebuffer.pixel_blank (r : Fin Config.fbHeight) (c : Fin Config.fbWidth) : Framebuffer.blank.pixel r c = false := by
  simp [Framebuffer.pixel, Framebuffer.blank]

/-- Two framebuffers with the same pixels are the same. -/
theorem Framebuffer.ext_pixel {fb fb' : Framebuffer} (h : ∀ r c, fb.pixel r c = fb'.pixel r c) : fb = fb' := by
  apply Vector.ext
  intro r hr
  apply Vector.ext
  intro c hc
  exact h ⟨r, hr⟩ ⟨c, hc⟩

/-- One plotted bit: its pixel is toggled by the bit, every other pixel stays. -/
theorem DrawState.plot_pixel (d : DrawState) (r r' : Fin Config.fbHeight) (c c' : Fin Config.fbWidth) (bit : Bool) :
    (d.plot r c bit).fb.pixel r' c' = (d.fb.pixel r' c' ^^ (decide (r' = r ∧ c' = c) && bit)) := by
  simp only [DrawState.plot, Framebuffer.pixel_setPixel]
  by_cases h : r' = r ∧ c' = c
  · simp [h.1, h.2]
  · simp [h]

/-- One plotted bit: a collision is a lit pixel under a set bit (R162 a). -/
@[simp] theorem DrawState.plot_collision (d : DrawState) (r : Fin Config.fbHeight) (c : Fin Config.fbWidth) (bit : Bool) :
    (d.plot r c bit).collision = (d.collision || (d.fb.pixel r c && bit)) := rfl

end Sys2Proof.Machine
end

