-- ==== Sys2Proof/Laws/Ops.lean ====
section
/-! SUPPORT. The shared operations: all that each can do. -/

namespace Sys2Proof.Machine

/-- All that the range check can do (R70): the effect when the range is in bounds, the DATA_OOB fault when it is not. -/
theorem checkRange_cases (a count : Nat) (s k : State) :
    (outOfRange a count = false ∧ checkRange a count s k = .next k)
      ∨ (outOfRange a count = true ∧ checkRange a count s k = .next (s.enterHalt .dataOob (max a Config.memSize))) := by
  unfold checkRange raiseFault
  cases outOfRange a count <;> simp

theorem outOfRange_iff {a count : Nat} : outOfRange a count = true ↔ 0 < count ∧ Config.memSize ≤ a + count - 1 := by
  simp [outOfRange]

theorem inRange_iff {a count : Nat} : outOfRange a count = false ↔ count = 0 ∨ a + count ≤ Config.memSize := by
  simp only [outOfRange, Bool.and_eq_false_iff, decide_eq_false_iff_not]
  omega

theorem checkRange_of_inRange {a count : Nat} {s k : State} (h : count = 0 ∨ a + count ≤ Config.memSize) :
    checkRange a count s k = .next k := by
  simp [checkRange, inRange_iff.mpr h]

theorem checkRange_of_outOfRange {a count : Nat} {s k : State} (h : 0 < count) (h' : Config.memSize ≤ a + count - 1) :
    checkRange a count s k = .next (s.enterHalt .dataOob (max a Config.memSize)) := by
  simp [checkRange, outOfRange_iff.mpr ⟨h, h'⟩, raiseFault]

/-- All that one event can do (R40, R41). -/
theorem handleEvent_cases (e : Event) (s : State) :
    (e = .tick ∧ handleEvent e s = .next s.tick) ∨ (e = .reset ∧ handleEvent e s = .next s.resetEvent)
      ∨ (∃ k r, e = .step k r ∧ handleEvent e s = engineStep (s.beginStep k r)) := by
  cases e <;> simp [handleEvent]

theorem engineStep_halted {s : State} (h : s.mode = .halted) : engineStep s = .next s := by simp [engineStep, h]

theorem engineStep_awaitKey {s : State} (h : s.mode = .awaitKey) : engineStep s = .next s.continueKeyWait := by
  simp [engineStep, h]

theorem engineStep_running {s : State} (h : s.mode = .running) : engineStep s = runInstruction s := by simp [engineStep, h]

/-- All that a STEP in RUNNING mode can do (R41). -/
theorem runInstruction_cases (s : State) :
    (s.fetchable = false ∧ runInstruction s = .next (s.enterHalt .fetchOob s.pc.toNat))
      ∨ (s.fetchable = true ∧ (∃ i, decode s.fetchWord = .instr i ∧ runInstruction s = exec i s))
      ∨ (s.fetchable = true ∧ (∃ r, decode s.fetchWord = .rejected r ∧ runInstruction s = .next (execUndef s.fetchWord s))) := by
  unfold runInstruction raiseFault
  cases s.fetchable <;> cases h : decode s.fetchWord <;> simp

/-- A 17-bit fault address holds every 16-bit value and N. -/
theorem toNat_faddr {n : Nat} (h : n < 131072) : (BitVec.ofNat 17 n).toNat = n := by
  simp [BitVec.toNat_ofNat]; omega

/-- Nothing but the listed fields changes, field by field. -/
theorem State.OnlyChanges.refl (s : State) (fs : List Field) : s.OnlyChanges s fs := by
  intro f _; cases f <;> simp [State.sameField]

theorem State.OnlyChanges.trans {s t u : State} {fs : List Field} (h : s.OnlyChanges t fs) (h' : t.OnlyChanges u fs) :
    s.OnlyChanges u fs := by
  intro f hf
  have h1 := h f hf
  have h2 := h' f hf
  cases f <;> simp_all [State.sameField]

theorem State.OnlyChanges.mono {s t : State} {fs gs : List Field} (h : s.OnlyChanges t fs) (hs : ∀ f ∈ fs, f ∈ gs) :
    s.OnlyChanges t gs := fun f hf => h f fun hf' => hf (hs f hf')

/-- Taking the next event and sampling the inputs touches the ports only. -/
theorem State.onlyChanges_begin (s : State) (k : Option Nibble) (r : Byte) : s.OnlyChanges (s.takeEvent.beginStep k r) ports := by
  intro f hf
  cases f <;> simp_all [State.sameField, ports, State.readByte]

end Sys2Proof.Machine
end

