-- ==== Sys2Proof/Laws/Encoding.lean ====
section
/-! SUPPORT. The fields and formats of an instruction word as numbers, and that each format's fields are what was put in
(30_encoding.md R91, R92). -/

namespace Sys2Proof

theorem fieldG_toNat (w : Word) : (fieldG w).toNat = w.toNat / 4096 := by
  simp [fieldG, BitVec.extractLsb'_toNat, Nat.shiftRight_eq_div_pow]; omega

theorem fieldX_toNat (w : Word) : (fieldX w).toNat = w.toNat / 256 % 16 := by
  simp [fieldX, BitVec.extractLsb'_toNat, Nat.shiftRight_eq_div_pow]

theorem fieldY_toNat (w : Word) : (fieldY w).toNat = w.toNat / 16 % 16 := by
  simp [fieldY, BitVec.extractLsb'_toNat, Nat.shiftRight_eq_div_pow]

theorem fieldN_toNat (w : Word) : (fieldN w).toNat = w.toNat % 16 := by
  simp [fieldN, BitVec.extractLsb'_toNat]

theorem fieldKk_toNat (w : Word) : (fieldKk w).toNat = w.toNat % 256 := by
  simp [fieldKk, BitVec.extractLsb'_toNat]

theorem fieldNnn_toNat (w : Word) : (fieldNnn w).toNat = w.toNat % 4096 := by
  simp [fieldNnn, BitVec.extractLsb'_toNat]

theorem highByte_toNat (w : Word) : (highByte w).toNat = w.toNat / 256 := by
  simp [highByte, BitVec.extractLsb'_toNat, Nat.shiftRight_eq_div_pow]; omega

theorem lowByte_toNat (w : Word) : (lowByte w).toNat = w.toNat % 256 := by
  simp [lowByte, BitVec.extractLsb'_toNat]

theorem groupNnn_toNat (g : Nibble) (nnn : Imm12) : (groupNnn g nnn).toNat = g.toNat * 4096 + nnn.toNat := by
  have h : (groupNnn g nnn).toNat = (g ++ nnn).toNat := rfl
  rw [h, BitVec.toNat_append, ← Nat.shiftLeft_add_eq_or_of_lt nnn.isLt, Nat.shiftLeft_eq]

theorem groupXKk_toNat (g : Nibble) (x : Reg) (kk : Byte) :
    (groupXKk g x kk).toNat = g.toNat * 4096 + x.toNat * 256 + kk.toNat := by
  have h : (groupXKk g x kk).toNat = (g ++ x ++ kk).toNat := rfl
  rw [h, BitVec.toNat_append, ← Nat.shiftLeft_add_eq_or_of_lt kk.isLt, BitVec.toNat_append,
    ← Nat.shiftLeft_add_eq_or_of_lt x.isLt]
  simp only [Nat.shiftLeft_eq]
  omega

theorem nibbles_toNat (g x y n : Nibble) :
    (nibbles g x y n).toNat = g.toNat * 4096 + x.toNat * 256 + y.toNat * 16 + n.toNat := by
  have h : (nibbles g x y n).toNat = (g ++ x ++ y ++ n).toNat := rfl
  rw [h, BitVec.toNat_append, ← Nat.shiftLeft_add_eq_or_of_lt n.isLt, BitVec.toNat_append,
    ← Nat.shiftLeft_add_eq_or_of_lt y.isLt, BitVec.toNat_append, ← Nat.shiftLeft_add_eq_or_of_lt x.isLt]
  simp only [Nat.shiftLeft_eq]
  omega

/-- The word of two bytes, high byte first (R62). -/
theorem wordOfBytes_toNat (hi lo : Byte) : (wordOfBytes hi lo).toNat = hi.toNat * 256 + lo.toNat := by
  have h : (wordOfBytes hi lo).toNat = (hi ++ lo).toNat := rfl
  rw [h, BitVec.toNat_append, ← Nat.shiftLeft_add_eq_or_of_lt lo.isLt, Nat.shiftLeft_eq]

/-! ### The fields of a word of each format -/

@[simp] theorem fieldG_groupNnn (g : Nibble) (nnn : Imm12) : fieldG (groupNnn g nnn) = g := by
  apply BitVec.eq_of_toNat_eq; rw [fieldG_toNat, groupNnn_toNat]; omega

@[simp] theorem fieldNnn_groupNnn (g : Nibble) (nnn : Imm12) : fieldNnn (groupNnn g nnn) = nnn := by
  apply BitVec.eq_of_toNat_eq; rw [fieldNnn_toNat, groupNnn_toNat]; omega

@[simp] theorem fieldG_groupXKk (g : Nibble) (x : Reg) (kk : Byte) : fieldG (groupXKk g x kk) = g := by
  apply BitVec.eq_of_toNat_eq; rw [fieldG_toNat, groupXKk_toNat]; omega

@[simp] theorem fieldX_groupXKk (g : Nibble) (x : Reg) (kk : Byte) : fieldX (groupXKk g x kk) = x := by
  apply BitVec.eq_of_toNat_eq; rw [fieldX_toNat, groupXKk_toNat]; omega

@[simp] theorem fieldKk_groupXKk (g : Nibble) (x : Reg) (kk : Byte) : fieldKk (groupXKk g x kk) = kk := by
  apply BitVec.eq_of_toNat_eq; rw [fieldKk_toNat, groupXKk_toNat]; omega

@[simp] theorem fieldG_nibbles (g x y n : Nibble) : fieldG (nibbles g x y n) = g := by
  apply BitVec.eq_of_toNat_eq; rw [fieldG_toNat, nibbles_toNat]; omega

@[simp] theorem fieldX_nibbles (g x y n : Nibble) : fieldX (nibbles g x y n) = x := by
  apply BitVec.eq_of_toNat_eq; rw [fieldX_toNat, nibbles_toNat]; omega

@[simp] theorem fieldY_nibbles (g x y n : Nibble) : fieldY (nibbles g x y n) = y := by
  apply BitVec.eq_of_toNat_eq; rw [fieldY_toNat, nibbles_toNat]; omega

@[simp] theorem fieldN_nibbles (g x y n : Nibble) : fieldN (nibbles g x y n) = n := by
  apply BitVec.eq_of_toNat_eq; rw [fieldN_toNat, nibbles_toNat]; omega

/-! ### A word is its fields, its two bytes -/

theorem nibbles_fields (w : Word) : nibbles (fieldG w) (fieldX w) (fieldY w) (fieldN w) = w := by
  apply BitVec.eq_of_toNat_eq; rw [nibbles_toNat, fieldG_toNat, fieldX_toNat, fieldY_toNat, fieldN_toNat]; omega

theorem groupXKk_fields (w : Word) : groupXKk (fieldG w) (fieldX w) (fieldKk w) = w := by
  apply BitVec.eq_of_toNat_eq; rw [groupXKk_toNat, fieldG_toNat, fieldX_toNat, fieldKk_toNat]; omega

theorem groupNnn_fields (w : Word) : groupNnn (fieldG w) (fieldNnn w) = w := by
  apply BitVec.eq_of_toNat_eq; rw [groupNnn_toNat, fieldG_toNat, fieldNnn_toNat]; omega

theorem wordOfBytes_bytes (w : Word) : wordOfBytes (highByte w) (lowByte w) = w := by
  apply BitVec.eq_of_toNat_eq; rw [wordOfBytes_toNat, highByte_toNat, lowByte_toNat]; omega

/-! ### The masks of the opcode map, as numbers -/

theorem and_maskF000 (w : Word) : w &&& 0xF000#16 = groupNnn (fieldG w) 0#12 := by
  apply BitVec.eq_of_getLsbD_eq
  intro i hi
  have h : (groupNnn (fieldG w) 0#12).getLsbD i = (fieldG w ++ 0#12).getLsbD i := rfl
  rw [h, BitVec.getLsbD_append]
  interval_cases i <;> simp [fieldG]

theorem and_maskF00F (w : Word) : w &&& 0xF00F#16 = nibbles (fieldG w) 0#4 0#4 (fieldN w) := by
  apply BitVec.eq_of_getLsbD_eq
  intro i hi
  have h : (nibbles (fieldG w) 0#4 0#4 (fieldN w)).getLsbD i = (fieldG w ++ 0#4 ++ 0#4 ++ fieldN w).getLsbD i := rfl
  rw [h]
  simp only [BitVec.getLsbD_append]
  interval_cases i <;> simp [fieldG, fieldN]

theorem and_maskF0FF (w : Word) : w &&& 0xF0FF#16 = groupXKk (fieldG w) 0#4 (fieldKk w) := by
  apply BitVec.eq_of_getLsbD_eq
  intro i hi
  have h : (groupXKk (fieldG w) 0#4 (fieldKk w)).getLsbD i = (fieldG w ++ 0#4 ++ fieldKk w).getLsbD i := rfl
  rw [h]
  simp only [BitVec.getLsbD_append]
  interval_cases i <;> simp [fieldG, fieldKk]

theorem and_maskFFFF (w : Word) : w &&& 0xFFFF#16 = w := by
  apply BitVec.eq_of_getLsbD_eq
  intro i hi
  interval_cases i <;> simp

end Sys2Proof
end

