-- ==== Sys2Proof/Laws/PerInstr.lean ====
section
/-! SUPPORT. A statement about every instruction as syntax, made per constructor: its encoding lies under its row of the opcode
map (30_encoding.md R95). -/

namespace Sys2Proof.Laws.RowOfTheMap

/-- The encoder's word, masked by the instruction's row, is the row's match value, and the row is one of the map. -/
def Statement (i : Instr) : Prop := encode i &&& i.mask = i.matchValue ∧ (i.mask, i.matchValue) ∈ opcodeMap

theorem cls : Statement .cls := ⟨by decide, by decide⟩

theorem ret : Statement .ret := ⟨by decide, by decide⟩

theorem jp (nnn : Imm12) : Statement (.jp nnn) :=
  ⟨by simp only [encode, Instr.mask, Instr.matchValue, and_maskF000, fieldG_groupNnn]; decide, by simp only [Instr.mask, Instr.matchValue]; decide⟩

theorem call (nnn : Imm12) : Statement (.call nnn) :=
  ⟨by simp only [encode, Instr.mask, Instr.matchValue, and_maskF000, fieldG_groupNnn]; decide, by simp only [Instr.mask, Instr.matchValue]; decide⟩

theorem seImm (x : Reg) (kk : Byte) : Statement (.seImm x kk) :=
  ⟨by simp only [encode, Instr.mask, Instr.matchValue, and_maskF000, fieldG_groupXKk]; decide, by simp only [Instr.mask, Instr.matchValue]; decide⟩

theorem sneImm (x : Reg) (kk : Byte) : Statement (.sneImm x kk) :=
  ⟨by simp only [encode, Instr.mask, Instr.matchValue, and_maskF000, fieldG_groupXKk]; decide, by simp only [Instr.mask, Instr.matchValue]; decide⟩

theorem seReg (x y : Reg) : Statement (.seReg x y) :=
  ⟨by simp only [encode, Instr.mask, Instr.matchValue, and_maskF00F, fieldG_nibbles, fieldN_nibbles]; decide, by simp only [Instr.mask, Instr.matchValue]; decide⟩

theorem ldImm (x : Reg) (kk : Byte) : Statement (.ldImm x kk) :=
  ⟨by simp only [encode, Instr.mask, Instr.matchValue, and_maskF000, fieldG_groupXKk]; decide, by simp only [Instr.mask, Instr.matchValue]; decide⟩

theorem addImm (x : Reg) (kk : Byte) : Statement (.addImm x kk) :=
  ⟨by simp only [encode, Instr.mask, Instr.matchValue, and_maskF000, fieldG_groupXKk]; decide, by simp only [Instr.mask, Instr.matchValue]; decide⟩

theorem ldReg (x y : Reg) : Statement (.ldReg x y) :=
  ⟨by simp only [encode, Instr.mask, Instr.matchValue, and_maskF00F, fieldG_nibbles, fieldN_nibbles]; decide, by simp only [Instr.mask, Instr.matchValue]; decide⟩

theorem orReg (x y : Reg) : Statement (.orReg x y) :=
  ⟨by simp only [encode, Instr.mask, Instr.matchValue, and_maskF00F, fieldG_nibbles, fieldN_nibbles]; decide, by simp only [Instr.mask, Instr.matchValue]; decide⟩

theorem andReg (x y : Reg) : Statement (.andReg x y) :=
  ⟨by simp only [encode, Instr.mask, Instr.matchValue, and_maskF00F, fieldG_nibbles, fieldN_nibbles]; decide, by simp only [Instr.mask, Instr.matchValue]; decide⟩

theorem xorReg (x y : Reg) : Statement (.xorReg x y) :=
  ⟨by simp only [encode, Instr.mask, Instr.matchValue, and_maskF00F, fieldG_nibbles, fieldN_nibbles]; decide, by simp only [Instr.mask, Instr.matchValue]; decide⟩

theorem addReg (x y : Reg) : Statement (.addReg x y) :=
  ⟨by simp only [encode, Instr.mask, Instr.matchValue, and_maskF00F, fieldG_nibbles, fieldN_nibbles]; decide, by simp only [Instr.mask, Instr.matchValue]; decide⟩

theorem subReg (x y : Reg) : Statement (.subReg x y) :=
  ⟨by simp only [encode, Instr.mask, Instr.matchValue, and_maskF00F, fieldG_nibbles, fieldN_nibbles]; decide, by simp only [Instr.mask, Instr.matchValue]; decide⟩

theorem shr (x y : Reg) : Statement (.shr x y) :=
  ⟨by simp only [encode, Instr.mask, Instr.matchValue, and_maskF00F, fieldG_nibbles, fieldN_nibbles]; decide, by simp only [Instr.mask, Instr.matchValue]; decide⟩

theorem subnReg (x y : Reg) : Statement (.subnReg x y) :=
  ⟨by simp only [encode, Instr.mask, Instr.matchValue, and_maskF00F, fieldG_nibbles, fieldN_nibbles]; decide, by simp only [Instr.mask, Instr.matchValue]; decide⟩

theorem shl (x y : Reg) : Statement (.shl x y) :=
  ⟨by simp only [encode, Instr.mask, Instr.matchValue, and_maskF00F, fieldG_nibbles, fieldN_nibbles]; decide, by simp only [Instr.mask, Instr.matchValue]; decide⟩

theorem sneReg (x y : Reg) : Statement (.sneReg x y) :=
  ⟨by simp only [encode, Instr.mask, Instr.matchValue, and_maskF00F, fieldG_nibbles, fieldN_nibbles]; decide, by simp only [Instr.mask, Instr.matchValue]; decide⟩

theorem ldI (nnn : Imm12) : Statement (.ldI nnn) :=
  ⟨by simp only [encode, Instr.mask, Instr.matchValue, and_maskF000, fieldG_groupNnn]; decide, by simp only [Instr.mask, Instr.matchValue]; decide⟩

theorem jpV0 (nnn : Imm12) : Statement (.jpV0 nnn) :=
  ⟨by simp only [encode, Instr.mask, Instr.matchValue, and_maskF000, fieldG_groupNnn]; decide, by simp only [Instr.mask, Instr.matchValue]; decide⟩

theorem rnd (x : Reg) (kk : Byte) : Statement (.rnd x kk) :=
  ⟨by simp only [encode, Instr.mask, Instr.matchValue, and_maskF000, fieldG_groupXKk]; decide, by simp only [Instr.mask, Instr.matchValue]; decide⟩

theorem drw (x y : Reg) (n : Nibble) : Statement (.drw x y n) :=
  ⟨by simp only [encode, Instr.mask, Instr.matchValue, and_maskF000, fieldG_nibbles]; decide, by simp only [Instr.mask, Instr.matchValue]; decide⟩

theorem ldVxDt (x : Reg) : Statement (.ldVxDt x) :=
  ⟨by simp only [encode, Instr.mask, Instr.matchValue, and_maskF0FF, fieldG_groupXKk, fieldKk_groupXKk]; decide, by simp only [Instr.mask, Instr.matchValue]; decide⟩

theorem ldVxK (x : Reg) : Statement (.ldVxK x) :=
  ⟨by simp only [encode, Instr.mask, Instr.matchValue, and_maskF0FF, fieldG_groupXKk, fieldKk_groupXKk]; decide, by simp only [Instr.mask, Instr.matchValue]; decide⟩

theorem ldDtVx (x : Reg) : Statement (.ldDtVx x) :=
  ⟨by simp only [encode, Instr.mask, Instr.matchValue, and_maskF0FF, fieldG_groupXKk, fieldKk_groupXKk]; decide, by simp only [Instr.mask, Instr.matchValue]; decide⟩

theorem ldStVx (x : Reg) : Statement (.ldStVx x) :=
  ⟨by simp only [encode, Instr.mask, Instr.matchValue, and_maskF0FF, fieldG_groupXKk, fieldKk_groupXKk]; decide, by simp only [Instr.mask, Instr.matchValue]; decide⟩

theorem addI (x : Reg) : Statement (.addI x) :=
  ⟨by simp only [encode, Instr.mask, Instr.matchValue, and_maskF0FF, fieldG_groupXKk, fieldKk_groupXKk]; decide, by simp only [Instr.mask, Instr.matchValue]; decide⟩

theorem ldF (x : Reg) : Statement (.ldF x) :=
  ⟨by simp only [encode, Instr.mask, Instr.matchValue, and_maskF0FF, fieldG_groupXKk, fieldKk_groupXKk]; decide, by simp only [Instr.mask, Instr.matchValue]; decide⟩

theorem ldB (x : Reg) : Statement (.ldB x) :=
  ⟨by simp only [encode, Instr.mask, Instr.matchValue, and_maskF0FF, fieldG_groupXKk, fieldKk_groupXKk]; decide, by simp only [Instr.mask, Instr.matchValue]; decide⟩

theorem stRegs (x : Reg) : Statement (.stRegs x) :=
  ⟨by simp only [encode, Instr.mask, Instr.matchValue, and_maskF0FF, fieldG_groupXKk, fieldKk_groupXKk]; decide, by simp only [Instr.mask, Instr.matchValue]; decide⟩

theorem ldRegs (x : Reg) : Statement (.ldRegs x) :=
  ⟨by simp only [encode, Instr.mask, Instr.matchValue, and_maskF0FF, fieldG_groupXKk, fieldKk_groupXKk]; decide, by simp only [Instr.mask, Instr.matchValue]; decide⟩

end Sys2Proof.Laws.RowOfTheMap
end

