-- ==== Sys2Proof/Laws/Step.lean ====
section
/-! SUPPORT. What an instruction and a step can do, said once (10_state.md R41, R42): the inversion lemmas that invariants and
whole-machine rules are derived from. -/

namespace Sys2Proof.Machine

/-! ### Small facts as numbers -/

theorem State.nextPc_toNat (s : State) : s.nextPc.toNat = (s.pc.toNat + 2) % 65536 := by simp [State.nextPc]

theorem State.skipPc_toNat (s : State) : s.skipPc.toNat = (s.pc.toNat + 4) % 65536 := by simp [State.skipPc]

theorem addrOfNnn_toNat (nnn : Imm12) : (addrOfNnn nnn).toNat = nnn.toNat := by simp [addrOfNnn]; omega

/-- A tick takes one from a timer that is not zero (R194). -/
theorem countDown_toNat (b : Byte) : (countDown b).toNat = b.toNat - 1 := by revert b; decide

theorem State.fetchable_iff (s : State) : s.fetchable = true ↔ s.pc.toNat < Config.memSize - 1 := by simp [State.fetchable]

theorem State.not_fetchable_iff (s : State) : s.fetchable = false ↔ Config.memSize - 1 ≤ s.pc.toNat := by simp [State.fetchable]

/-- A rejected word is rejected by its own name. -/
theorem decode_rejected {w : Word} {r : Reject} (h : decode w = .rejected r) : r = .undefinedOpcode w := by
  unfold decode decodeGroup8 decodeGroupF at h
  repeat' split at h
  all_goals simp at h
  all_goals exact h.symm

/-! ### What an instruction can do -/

/-- The range check in terms of `I`: the effect, or the fault (R70). -/
theorem checkRange_next {s k t : State} {count : Nat} (h : checkRange (s.effAddr 0) count s k = .next t) :
    t = k ∨ (0 < count ∧ Config.memSize ≤ s.i.toNat + count - 1
      ∧ t = s.enterHalt .dataOob (max s.i.toNat Config.memSize)) := by
  rcases checkRange_cases (s.effAddr 0) count s k with ⟨-, h2⟩ | ⟨h1, h2⟩
  · rw [h2] at h; cases h; exact .inl rfl
  · rw [h2] at h; cases h; exact .inr ⟨(outOfRange_iff.mp h1).1, (outOfRange_iff.mp h1).2, rfl⟩

/-- Every next state of an instruction is its own effect, in which the engine state, the schedule, the inputs and WARN stay; or
the start of a key wait; or one of the three faults an instruction raises. -/
theorem exec_cases {i : Instr} {s t : State} (h : exec i s = .next t) :
    (t.mode = s.mode ∧ t.fcause = s.fcause ∧ t.faddr = s.faddr ∧ t.kreg = s.kreg ∧ t.events = s.events ∧ t.draws = s.draws
        ∧ t.key = s.key ∧ t.rand = s.rand ∧ t.warn = s.warn)
      ∨ (∃ x, i = .ldVxK x ∧ s.key = none ∧ t = { s with mode := .awaitKey, kreg := x, req := .awaitKey })
      ∨ (∃ nnn, i = .call nnn ∧ s.sp = 16#8 ∧ t = s.enterHalt .stackOverflow s.pc.toNat)
      ∨ (i = .ret ∧ s.sp = 0#8 ∧ t = s.enterHalt .stackUnderflow s.pc.toNat)
      ∨ (0 < i.dataBytes ∧ Config.memSize ≤ s.i.toNat + i.dataBytes - 1
        ∧ t = s.enterHalt .dataOob (max s.i.toNat Config.memSize)) := by
  cases i
  case ret =>
    simp only [exec, execRet, raiseFault] at h
    split at h
    · cases h; exact .inr (.inr (.inr (.inl ⟨rfl, ‹_›, rfl⟩)))
    · split at h <;> cases h
      exact .inl (by simp)
  case call nnn =>
    simp only [exec, execCall, raiseFault] at h
    split at h
    · cases h; exact .inr (.inr (.inl ⟨nnn, rfl, ‹_›, rfl⟩))
    · split at h <;> cases h
      exact .inl (by simp)
  case ldVxK x =>
    simp only [exec, execLdVxK] at h
    cases h
    cases hk : s.key with
    | none => exact .inr (.inl ⟨x, rfl, rfl, rfl⟩)
    | some k => exact .inl (by simp [hk])
  case ldB =>
    rcases checkRange_next h with rfl | hf
    · exact .inl (by simp)
    · exact .inr (.inr (.inr (.inr hf)))
  case stRegs =>
    rcases checkRange_next h with rfl | hf
    · exact .inl (by simp)
    · exact .inr (.inr (.inr (.inr hf)))
  case ldRegs =>
    rcases checkRange_next h with rfl | hf
    · exact .inl (by simp)
    · exact .inr (.inr (.inr (.inr hf)))
  case drw =>
    rcases checkRange_next h with rfl | hf
    · exact .inl (by simp)
    · exact .inr (.inr (.inr (.inr hf)))
  all_goals (cases h; exact .inl (by simp))

/-- No instruction writes anything but canonical memory (R60): the stores are the only writers, and check their range first. -/
theorem exec_keeps_memory_canonical {i : Instr} {s t : State} (hw : Memory.wf s.mem = true) (h : exec i s = .next t) :
    Memory.wf t.mem = true := by
  have store : ∀ {bs : List Byte} {u : State},
      checkRange (s.effAddr 0) bs.length s { s with mem := Memory.writeBytes s.mem (s.effAddr 0) bs }.advance = .next u →
      Memory.wf u.mem = true := by
    intro bs u hu
    rcases checkRange_cases (s.effAddr 0) bs.length s { s with mem := Memory.writeBytes s.mem (s.effAddr 0) bs }.advance
      with ⟨h1, h2⟩ | ⟨-, h2⟩
    · rw [h2] at hu
      cases hu
      exact Memory.wf_writeBytes hw ((inRange_iff.mp h1).imp_left List.length_eq_zero_iff.mp)
    · rw [h2] at hu
      cases hu
      exact hw
  cases i
  case ret =>
    simp only [exec, execRet, raiseFault] at h
    split at h
    · cases h; exact hw
    · split at h <;> cases h; exact hw
  case call =>
    simp only [exec, execCall, raiseFault] at h
    split at h
    · cases h; exact hw
    · split at h <;> cases h; exact hw
  case ldVxK x =>
    simp only [exec, execLdVxK] at h
    cases h
    cases hk : s.key <;> simpa [hk] using hw
  case ldB x => exact store (bs := bcdDigits (s.getV x)) h
  case stRegs x => exact store (bs := s.regsThrough x) (by rw [State.length_regsThrough]; exact h)
  case ldRegs =>
    rcases checkRange_next h with rfl | ⟨-, -, rfl⟩ <;> simpa using hw
  case drw =>
    rcases checkRange_next h with rfl | ⟨-, -, rfl⟩ <;> simpa using hw
  all_goals (cases h; simpa using hw)

/-! ### What a step can do -/

theorem step_of_tick {s : State} (he : s.nextEvent = .tick) : step s = .next s.takeEvent.tick := by
  simp [step, he, handleEvent]

theorem step_of_reset {s : State} (he : s.nextEvent = .reset) : step s = .next s.takeEvent.resetEvent := by
  simp [step, he, handleEvent]

theorem step_of_halted {s : State} {k : Option Nibble} {r : Byte} (he : s.nextEvent = .step k r) (hm : s.mode = .halted) :
    step s = .next (s.takeEvent.beginStep k r) := by
  simp [step, he, handleEvent, engineStep, hm]

theorem step_of_awaitKey {s : State} {k : Option Nibble} {r : Byte} (he : s.nextEvent = .step k r) (hm : s.mode = .awaitKey) :
    step s = .next (s.takeEvent.beginStep k r).continueKeyWait := by
  simp [step, he, handleEvent, engineStep, hm]

/-- A STEP in RUNNING mode: the fetch fault, the decoded instruction on the state whose inputs are sampled, or the no-op with
the warning. -/
theorem step_of_running {s : State} {k : Option Nibble} {r : Byte} (he : s.nextEvent = .step k r) (hm : s.mode = .running) :
    (s.fetchable = false ∧ step s = .next ((s.takeEvent.beginStep k r).enterHalt .fetchOob s.pc.toNat))
      ∨ (s.fetchable = true ∧ ∃ i, decode s.fetchWord = .instr i ∧ step s = exec i (s.takeEvent.beginStep k r))
      ∨ (s.fetchable = true ∧ decode s.fetchWord = .rejected (.undefinedOpcode s.fetchWord)
        ∧ step s = .next (execUndef s.fetchWord (s.takeEvent.beginStep k r))) := by
  have hw : (s.takeEvent.beginStep k r).fetchWord = s.fetchWord := State.fetchWord_congr (by simp) (by simp)
  have hf : (s.takeEvent.beginStep k r).fetchable = s.fetchable := State.fetchable_congr (by simp)
  have hs : step s = runInstruction (s.takeEvent.beginStep k r) := by simp [step, he, handleEvent, engineStep, hm]
  rw [hs]
  rcases runInstruction_cases (s.takeEvent.beginStep k r) with h | ⟨h, i, hd, hx⟩ | ⟨h, rj, hd, hx⟩
  · rw [hf] at h; exact .inl (by simpa using h)
  · rw [hw] at hd; rw [hf] at h; exact .inr (.inl ⟨h, i, hd, hx⟩)
  · rw [hw] at hd hx; rw [hf] at h; exact .inr (.inr ⟨h, by rw [hd, decode_rejected hd], hx⟩)

end Sys2Proof.Machine
end

