-- ==== Sys2Proof/Tests/Slice0.lean ====
section
/-! SUPPORT. Tests. The expected values are the spec's: the patterns of 30_encoding.md R95, and the vectors V-… and examples E…
of 95_test_vectors.md, which the names of the theorems give. After them the witnesses: states and operands that meet the
hypotheses of the statements, at the edges of their ranges. -/

namespace Sys2Proof.Tests
open Sys2Proof Sys2Proof.Machine

/-! ### Helpers -/

/-- The answer is a next state, and it has the property. -/
def nextHolds (r : Result) (p : State → Bool) : Bool :=
  match r with
  | .next t => p t
  | .fault _ => false
  | .refused _ => false

theorem exists_next_of_nextHolds {r : Result} {P : State → Prop} [DecidablePred P]
    (h : nextHolds r (fun t => decide (P t)) = true) : ∃ t, r = .next t ∧ P t := by
  cases r with
  | next t => exact ⟨t, rfl, of_decide_eq_true h⟩
  | fault _ => exact absurd h (by simp [nextHolds])
  | refused _ => exact absurd h (by simp [nextHolds])

/-- The state after reset with some registers set. -/
def regs (l : List (Reg × Byte)) : State := l.foldl (fun s p => s.setV p.1 p.2) State.reset

/-- One STEP that fetches the word `w`, and what holds after it. -/
def runs (s : State) (w : Nat) (p : State → Bool) : Bool := nextHolds (step (s.withFetchWord 16 w)) p

/-- Bytes at an address. -/
def poke (s : State) (a : Nat) (bs : List Byte) : State := { s with mem := Memory.writeBytes s.mem a bs }

/-- Some pixels are lit and some are not. -/
def shows (s : State) (lit dark : List (Fin 32 × Fin 64)) : Bool :=
  lit.all (fun p => s.readPort p.1 p.2) && dark.all (fun p => !s.readPort p.1 p.2)

/-! ### Well-formedness: each check refuses an ill-formed term -/

theorem test_hardware_is_wellformed : Config.hardware.wf = true := by decide

theorem test_illformed_params_refused :
    ({ Config.hardware with memSize := 4095 } : Params).wf = false
      ∧ ({ Config.hardware with memSize := 65537 } : Params).wf = false
      ∧ ({ Config.hardware with fbWidth := 7 } : Params).wf = false
      ∧ ({ Config.hardware with fbHeight := 14 } : Params).wf = false
      ∧ ({ Config.hardware with fontBase := 0x1B1 } : Params).wf = false
      ∧ ({ Config.hardware with stackDepth := 12 } : Params).wf = false
      ∧ ({ Config.hardware with numRegs := 8 } : Params).wf = false
      ∧ ({ Config.hardware with resetPc := 0 } : Params).wf = false
      ∧ ({ Config.hardware with glyphStride := 4 } : Params).wf = false
      ∧ ({ Config.hardware with tickHz := 50 } : Params).wf = false := by decide

theorem test_wellformed_images :
    ({ program := List.replicate 3584 0, font := [] } : Image).wf = true
      ∧ ({ program := [0x12, 0x00], font := List.replicate 80 0xF0 } : Image).wf = true := by
  refine ⟨?_, ?_⟩ <;> simp only [Image.wf, List.length_replicate] <;> decide

theorem test_illformed_images_refused :
    ({ program := List.replicate 3585 0, font := [] } : Image).wf = false
      ∧ ({ program := [], font := List.replicate 79 0xF0 } : Image).wf = false := by
  refine ⟨?_, ?_⟩ <;> simp only [Image.wf, List.length_replicate] <;> decide

theorem test_assembler_form : (Instr.shr 4 0).assemblerForm = true ∧ (Instr.shr 4 7).assemblerForm = false
    ∧ (Instr.shl 1 2).assemblerForm = false := by decide

/-! ### Decoding: every constructor's word, written out from its pattern (R95) -/

theorem test_decode_flow :
    decode 0b0000_0000_1110_1110#16 = .instr .ret
      ∧ decode 0b0001_1010_1011_1100#16 = .instr (.jp 0xABC)
      ∧ decode 0b0010_0010_0000_1100#16 = .instr (.call 0x20C)
      ∧ decode 0b0011_1010_0000_0101#16 = .instr (.seImm 10 5)
      ∧ decode 0b0100_1010_0000_0101#16 = .instr (.sneImm 10 5)
      ∧ decode 0b0101_0001_0010_0000#16 = .instr (.seReg 1 2)
      ∧ decode 0b1001_0001_0010_0000#16 = .instr (.sneReg 1 2)
      ∧ decode 0b1011_0011_0000_0001#16 = .instr (.jpV0 0x301) := by decide

theorem test_decode_alu :
    decode 0b0110_1010_0010_1111#16 = .instr (.ldImm 10 0x2F)
      ∧ decode 0b0111_0001_0000_0101#16 = .instr (.addImm 1 5)
      ∧ decode 0b1000_0001_0010_0000#16 = .instr (.ldReg 1 2)
      ∧ decode 0b1000_0001_0010_0001#16 = .instr (.orReg 1 2)
      ∧ decode 0b1000_0001_0010_0010#16 = .instr (.andReg 1 2)
      ∧ decode 0b1000_0001_0010_0011#16 = .instr (.xorReg 1 2)
      ∧ decode 0b1000_0001_0010_0100#16 = .instr (.addReg 1 2)
      ∧ decode 0b1000_0001_0010_0101#16 = .instr (.subReg 1 2)
      ∧ decode 0b1000_0100_0111_0110#16 = .instr (.shr 4 7)
      ∧ decode 0b1000_0001_0010_0111#16 = .instr (.subnReg 1 2)
      ∧ decode 0b1000_0001_0010_1110#16 = .instr (.shl 1 2)
      ∧ decode 0b1100_0011_0000_1111#16 = .instr (.rnd 3 0x0F) := by decide

theorem test_decode_memory_display_timer :
    decode 0b1010_0010_1111_0000#16 = .instr (.ldI 0x2F0)
      ∧ decode 0b1111_0011_0001_1110#16 = .instr (.addI 3)
      ∧ decode 0b1111_0100_0010_1001#16 = .instr (.ldF 4)
      ∧ decode 0b1111_0101_0011_0011#16 = .instr (.ldB 5)
      ∧ decode 0b1111_0110_0101_0101#16 = .instr (.stRegs 6)
      ∧ decode 0b1111_0111_0110_0101#16 = .instr (.ldRegs 7)
      ∧ decode 0b0000_0000_1110_0000#16 = .instr .cls
      ∧ decode 0b1101_0001_0010_0011#16 = .instr (.drw 1 2 3)
      ∧ decode 0b1111_1000_0000_0111#16 = .instr (.ldVxDt 8)
      ∧ decode 0b1111_1001_0000_1010#16 = .instr (.ldVxK 9)
      ∧ decode 0b1111_1010_0001_0101#16 = .instr (.ldDtVx 10)
      ∧ decode 0b1111_1011_0001_1000#16 = .instr (.ldStVx 11) := by decide

/-- V-U1 to V-U9: words of no pattern, rejected by name. -/
theorem test_undefined_words_rejected :
    [0x5001#16, 0x0000#16, 0xE19E#16, 0xE1A1#16, 0x8128#16, 0x9121#16, 0xF075#16, 0x0123#16, 0x00E1#16].all
      (fun w => decode w == .rejected (.undefinedOpcode w)) = true := by decide

theorem test_bytes_are_big_endian_and_truncation_is_named :
    decodeBytes [0x61, 0xAB, 0x00] = (.instr (.ldImm 1 0xAB), [0x00])
      ∧ decodeBytes [0x61] = (.rejected .truncated, [0x61]) ∧ decodeBytes [] = (.rejected .truncated, [])
      ∧ encodeBytes (.ldImm 1 0xAB) = [0x61, 0xAB] ∧ decodeTableWord 16 0x61AB = some (.ldImm 1 0xAB)
      ∧ decodeTableWord 16 0x5001 = none := by decide

/-! ### Control transfer -/

theorem test_jp_V_F1_F3 :
    runs State.reset 0x1ABC (fun t => t.pc == 0x0ABC#16) = true
      ∧ runs State.reset 0x1203 (fun t => t.pc == 0x0203#16) = true := by decide

theorem test_odd_fetch_V_F3 :
    nextHolds (step { poke State.reset 0x203 [0x61, 0xAB] with pc := 0x203, events := [.step none 0] })
      (fun t => t.getV 1 == 0xAB#8 && t.pc == 0x205#16) = true := by decide

theorem test_call_V_F4_F6 :
    runs { State.reset with pc := 0x204 } 0x220C (fun t => t.stack[0] == 0x204#16 && t.sp == 1#8 && t.pc == 0x20C#16) = true
      ∧ runs { State.reset with sp := 15 } 0x2300 (fun t => t.stack[15] == 0x200#16 && t.sp == 16#8 && t.pc == 0x300#16) = true := by
  decide

theorem test_call_overflow_V_F7 :
    runs { State.reset with sp := 16 } 0x2300 (fun t => t.mode == .halted && t.fcause.code == 3#3 && t.faddr == 0x200#17
      && t.pc == 0x200#16 && t.sp == 16#8 && t.stack == State.reset.stack) = true := by decide

theorem test_ret_V_F5 :
    runs { State.reset with sp := 1, stack := State.reset.stack.set 0 0x204, pc := 0x210 } 0x00EE
      (fun t => t.sp == 0#8 && t.pc == 0x206#16) = true := by decide

theorem test_ret_underflow_V_F8 :
    runs State.reset 0x00EE (fun t => t.mode == .halted && t.fcause.code == 4#3 && t.faddr == 0x200#17 && t.pc == 0x200#16
      && t.sp == 0#8) = true := by decide

theorem test_seImm_V_F9_F10 :
    runs (regs [(10, 0x05)]) 0x3A05 (fun t => t.pc == 0x204#16) = true
      ∧ runs (regs [(10, 0x06)]) 0x3A05 (fun t => t.pc == 0x202#16) = true := by decide

theorem test_sneImm_V_F11_F12 :
    runs (regs [(10, 0x05)]) 0x4A05 (fun t => t.pc == 0x202#16) = true
      ∧ runs (regs [(10, 0x06)]) 0x4A05 (fun t => t.pc == 0x204#16) = true := by decide

theorem test_seReg_V_F13_F14_F15 :
    runs (regs [(1, 0x7F), (2, 0x7F)]) 0x5120 (fun t => t.pc == 0x204#16) = true
      ∧ runs (regs [(1, 0x7F), (2, 0x7E)]) 0x5120 (fun t => t.pc == 0x202#16) = true
      ∧ runs (regs [(1, 0x33)]) 0x5110 (fun t => t.pc == 0x204#16) = true := by decide

theorem test_sneReg_V_F16_F17_F18 :
    runs (regs [(1, 1), (2, 2)]) 0x9120 (fun t => t.pc == 0x204#16) = true
      ∧ runs (regs [(1, 1), (2, 1)]) 0x9120 (fun t => t.pc == 0x202#16) = true
      ∧ runs (regs [(10, 0x33)]) 0x9AA0 (fun t => t.pc == 0x202#16) = true := by decide

theorem test_jpV0_V_F19_F20_F21 :
    runs (regs [(0, 0x04)]) 0xB300 (fun t => t.pc == 0x304#16) = true
      ∧ runs (regs [(0, 0xFF)]) 0xBFFF (fun t => t.pc == 0x10FE#16) = true
      ∧ runs (regs [(0, 0x01)]) 0xB202 (fun t => t.pc == 0x203#16) = true := by decide

/-! ### Load, arithmetic, logic, shift, random -/

theorem test_ldImm_V_A1_A2 :
    runs (regs [(15, 7)]) 0x6A2F (fun t => t.getV 10 == 0x2F#8 && t.getV 15 == 7#8 && t.pc == 0x202#16) = true
      ∧ runs State.reset 0x6FF0 (fun t => t.getV 15 == 0xF0#8) = true := by decide

theorem test_addImm_V_A3_A4 :
    runs (regs [(1, 0xFE), (15, 7)]) 0x7105 (fun t => t.getV 1 == 0x03#8 && t.getV 15 == 7#8) = true
      ∧ runs State.reset 0x71FF (fun t => t.getV 1 == 0xFF#8) = true := by decide

theorem test_ldReg_V_A6 : runs (regs [(2, 0x9C)]) 0x8120 (fun t => t.getV 1 == 0x9C#8 && t.getV 2 == 0x9C#8) = true := by decide

theorem test_orReg_V_A7 :
    runs (regs [(1, 0xF0), (2, 0x0C), (15, 7)]) 0x8121 (fun t => t.getV 1 == 0xFC#8 && t.getV 15 == 7#8) = true := by decide

theorem test_andReg_V_A8 :
    runs (regs [(1, 0xFC), (2, 0x0C), (15, 7)]) 0x8122 (fun t => t.getV 1 == 0x0C#8 && t.getV 15 == 7#8) = true := by decide

theorem test_xorReg_V_A9_A10 :
    runs (regs [(1, 0x0C), (2, 0x0C), (15, 7)]) 0x8123 (fun t => t.getV 1 == 0x00#8 && t.getV 15 == 7#8) = true
      ∧ runs (regs [(1, 0xF0), (2, 0x3C)]) 0x8123 (fun t => t.getV 1 == 0xCC#8) = true := by decide

/-- E2 is the first of these. -/
theorem test_addReg_V_A11_A12_A13_A14 :
    runs (regs [(0, 0xFF), (1, 0x01)]) 0x8014 (fun t => t.getV 0 == 0x00#8 && t.getV 15 == 1#8) = true
      ∧ runs (regs [(0, 0x80), (1, 0x7F), (15, 9)]) 0x8014 (fun t => t.getV 0 == 0xFF#8 && t.getV 15 == 0#8) = true
      ∧ runs (regs [(0, 0xFF), (1, 0xFF)]) 0x8014 (fun t => t.getV 0 == 0xFE#8 && t.getV 15 == 1#8) = true
      ∧ runs (regs [(1, 0xC0)]) 0x8114 (fun t => t.getV 1 == 0x80#8 && t.getV 15 == 1#8) = true := by decide

theorem test_addReg_flag_operands_V_A15_A16 :
    runs (regs [(15, 0xF0), (1, 0x20)]) 0x8F14 (fun t => t.getV 15 == 1#8) = true
      ∧ runs (regs [(15, 0x03), (1, 0x05)]) 0x81F4 (fun t => t.getV 1 == 0x08#8 && t.getV 15 == 0#8) = true := by decide

/-- E3 is the first of these. -/
theorem test_subReg_V_A17_A18_A19_A20 :
    runs (regs [(2, 0x01), (3, 0x02)]) 0x8235 (fun t => t.getV 2 == 0xFF#8 && t.getV 15 == 0#8) = true
      ∧ runs (regs [(2, 0x05), (3, 0x02)]) 0x8235 (fun t => t.getV 2 == 0x03#8 && t.getV 15 == 1#8) = true
      ∧ runs (regs [(1, 0x07), (2, 0x07), (15, 9)]) 0x8125 (fun t => t.getV 1 == 0#8 && t.getV 15 == 0#8) = true
      ∧ runs (regs [(1, 0x09)]) 0x8115 (fun t => t.getV 1 == 0#8 && t.getV 15 == 0#8) = true := by decide

theorem test_subReg_flag_operands_V_A21_A22 :
    runs (regs [(15, 0x05), (1, 0x03)]) 0x8F15 (fun t => t.getV 15 == 1#8) = true
      ∧ runs (regs [(15, 0x05), (1, 0x03)]) 0x81F5 (fun t => t.getV 1 == 0xFE#8 && t.getV 15 == 0#8) = true := by decide

/-- E4 is the first of these. -/
theorem test_shr_V_A23_A24_A25_A26 :
    runs (regs [(4, 0x81)]) 0x8406 (fun t => t.getV 4 == 0x40#8 && t.getV 15 == 1#8) = true
      ∧ runs (regs [(4, 0x81), (7, 0xFE)]) 0x8476 (fun t => t.getV 4 == 0x40#8 && t.getV 7 == 0xFE#8 && t.getV 15 == 1#8) = true
      ∧ runs (regs [(15, 9)]) 0x8406 (fun t => t.getV 4 == 0#8 && t.getV 15 == 0#8) = true
      ∧ runs (regs [(15, 0x03)]) 0x8F06 (fun t => t.getV 15 == 1#8) = true := by decide

theorem test_subnReg_V_A27_A28_A29 :
    runs (regs [(1, 0x02), (2, 0x01)]) 0x8127 (fun t => t.getV 1 == 0xFF#8 && t.getV 15 == 0#8) = true
      ∧ runs (regs [(1, 0x01), (2, 0x05)]) 0x8127 (fun t => t.getV 1 == 0x04#8 && t.getV 2 == 5#8 && t.getV 15 == 1#8) = true
      ∧ runs (regs [(1, 0x07), (2, 0x07), (15, 9)]) 0x8127 (fun t => t.getV 1 == 0#8 && t.getV 15 == 0#8) = true := by decide

theorem test_shl_V_A30_A31_A32 :
    runs (regs [(1, 0x81), (2, 0xFF)]) 0x812E (fun t => t.getV 1 == 0x02#8 && t.getV 2 == 0xFF#8 && t.getV 15 == 1#8) = true
      ∧ runs (regs [(1, 0x40), (15, 9)]) 0x810E (fun t => t.getV 1 == 0x80#8 && t.getV 15 == 0#8) = true
      ∧ runs (regs [(15, 0x81)]) 0x8F0E (fun t => t.getV 15 == 1#8) = true := by decide

theorem test_rnd_V_A33_A34 :
    runs { regs [(15, 9)] with rand := 0xA7 } 0xC30F (fun t => t.getV 3 == 0x07#8 && t.getV 15 == 9#8) = true
      ∧ runs { regs [(4, 9)] with rand := 0xFF } 0xC400 (fun t => t.getV 4 == 0#8) = true := by decide

/-! ### The address register and memory -/

theorem test_ldI_V_M1 : runs State.reset 0xA2F0 (fun t => t.i == 0x02F0#16 && t.pc == 0x202#16) = true := by decide

theorem test_addI_V_M2_M3_M4 :
    runs { regs [(3, 0x03), (15, 9)] with i := 0x300 } 0xF31E (fun t => t.i == 0x303#16 && t.getV 15 == 9#8) = true
      ∧ runs { regs [(0, 0x01), (15, 9)] with i := 0xFFF } 0xF01E
          (fun t => t.i == 0x1000#16 && t.getV 15 == 9#8 && t.mode == .running) = true
      ∧ runs { regs [(0, 0x01)] with i := 0xFFFF } 0xF01E (fun t => t.i == 0#16) = true := by decide

theorem test_ldF_V_M5_M7_M8 :
    runs (regs [(0, 0x0A)]) 0xF029 (fun t => t.i == 0x32#16) = true
      ∧ runs (regs [(0, 0x0F)]) 0xF029 (fun t => t.i == 0x4B#16) = true
      ∧ runs (regs [(0, 0x1A)]) 0xF029 (fun t => t.i == 0x32#16) = true := by decide

theorem test_ldB_V_M9_M10_M13 :
    runs { regs [(0, 0xFE)] with i := 0x300 } 0xF033
        (fun t => Memory.readBytes t.mem 0x300 3 == [2, 5, 4] && t.i == 0x300#16 && t.getV 0 == 0xFE#8) = true
      ∧ runs { poke State.reset 0x300 [9, 9, 9] with i := 0x300 } 0xF033
          (fun t => Memory.readBytes t.mem 0x300 3 == [0, 0, 0]) = true
      ∧ runs { regs [(0, 0xFF)] with i := 0xFFD } 0xF033
          (fun t => Memory.readBytes t.mem 0xFFD 3 == [2, 5, 5] && t.mode == .running) = true := by decide

theorem test_ldB_fault_V_M14_M15 :
    runs { regs [(0, 0xFF)] with i := 0xFFE } 0xF033 (fun t => t.mode == .halted && t.fcause.code == 2#3 && t.faddr == 0x1000#17
        && Memory.readBytes t.mem 0xFFE 2 == [0, 0] && t.pc == 0x200#16) = true
      ∧ runs { regs [(0, 0x01)] with i := 0x1000 } 0xF033 (fun t => t.fcause.code == 2#3 && t.faddr == 0x1000#17) = true := by decide

theorem test_stRegs_V_M16_M17_M18 :
    runs { regs [(0, 0xAA), (1, 0xBB)] with i := 0x300 } 0xF055
        (fun t => Memory.readBytes t.mem 0x300 2 == [0xAA, 0] && t.i == 0x300#16) = true
      ∧ runs { regs [(0, 2), (1, 5), (2, 4)] with i := 0x303 } 0xF255
          (fun t => Memory.readBytes t.mem 0x303 4 == [2, 5, 4, 0] && t.i == 0x303#16) = true
      ∧ runs { regs [(0, 0x11), (1, 0x22), (15, 0xEE)] with i := 0x300 } 0xFF55
          (fun t => Memory.readBytes t.mem 0x300 17 == [0x11, 0x22, 0, 0, 0, 0, 0, 0, 0, 0, 0, 0, 0, 0, 0, 0xEE, 0]) = true := by
  decide

theorem test_stRegs_fault_V_M19 :
    runs { regs [(0, 1), (1, 2)] with i := 0xFFE } 0xF255 (fun t => t.mode == .halted && t.fcause.code == 2#3
      && t.faddr == 0x1000#17 && Memory.readBytes t.mem 0xFFE 2 == [0, 0] && t.pc == 0x200#16) = true := by decide

theorem test_ldRegs_V_M20_M21 :
    runs { poke (regs [(3, 0x77)]) 0x300 [2, 5, 4, 9] with i := 0x300 } 0xF265
        (fun t => t.getV 0 == 2#8 && t.getV 1 == 5#8 && t.getV 2 == 4#8 && t.getV 3 == 0x77#8 && t.i == 0x300#16) = true
      ∧ runs { poke State.reset 0x300 [0x11, 0x22, 0, 0, 0, 0, 0, 0, 0, 0, 0, 0, 0, 0, 0, 0xEE] with i := 0x300 } 0xFF65
          (fun t => t.getV 0 == 0x11#8 && t.getV 1 == 0x22#8 && t.getV 15 == 0xEE#8) = true := by decide

theorem test_ldRegs_fault_V_M22_M23 :
    runs { regs [(0, 7)] with i := 0xFF1 } 0xFF65 (fun t => t.mode == .halted && t.fcause.code == 2#3 && t.faddr == 0x1000#17
        && t.getV 0 == 7#8) = true
      ∧ runs { poke State.reset 0xFFF [0xEE] with i := 0xFF0 } 0xFF65 (fun t => t.mode == .running && t.getV 15 == 0xEE#8) = true := by
  decide

/-! ### Display -/

theorem test_cls_V_D1 :
    runs { regs [(15, 5)] with fb := Framebuffer.blank.setPixel 3 4 true } 0x00E0 (fun t => shows t [] [(3, 4), (31, 63)]
      && t.getV 15 == 5#8 && t.req.code == 1#2 && t.pc == 0x202#16) = true := by decide

/-- E7 is the first of these. -/
theorem test_drw_V_D3_D4 :
    runs { poke (regs [(0, 63), (1, 31)]) 0x20C [0xFF] with i := 0x20C } 0xD011
        (fun t => shows t [(31, 63), (31, 0), (31, 6)] [(31, 7), (0, 0), (0, 63), (31, 62)] && t.getV 15 == 0#8
          && t.req.code == 2#2) = true
      ∧ runs { poke State.reset 0x20A [0xF0] with i := 0x20A } 0xD011
          (fun t => shows t [(0, 0), (0, 3)] [(0, 4), (1, 0), (31, 0)] && t.getV 15 == 0#8) = true := by decide

theorem test_drw_corners_V_D5_D7_D8_D10 :
    runs { poke (regs [(0, 2)]) 0x20A [0xF0] with
          i := 0x20A, fb := (Framebuffer.blank.setPixel 0 1 true).setPixel 0 2 true } 0xD011
        (fun t => shows t [(0, 1), (0, 4)] [(0, 2), (0, 6)] && t.getV 15 == 1#8) = true
      ∧ runs { poke (regs [(15, 0x3F)]) 0x20A [0x80] with i := 0x20A } 0xDF11
          (fun t => shows t [(0, 63)] [(0, 0), (0, 62)] && t.getV 15 == 0#8) = true
      ∧ runs { regs [(15, 7)] with i := 0xFFF } 0xD000
          (fun t => t.getV 15 == 0#8 && t.req.code == 2#2 && t.pc == 0x202#16) = true
      ∧ runs { regs [(15, 7)] with i := 0xFFF } 0xD002 (fun t => t.fcause.code == 2#3 && t.faddr == 0x1000#17
          && t.getV 15 == 7#8 && t.req.code == 0#2 && t.pc == 0x200#16) = true := by decide

/-! ### Timers and key wait -/

theorem test_ldDtVx_V_T1 : runs (regs [(10, 5)]) 0xFA15 (fun t => t.dt == 5#8 && t.st == 0#8) = true := by decide

theorem test_ldStVx_V_T2 : runs (regs [(1, 2)]) 0xF118 (fun t => t.st == 2#8 && t.dt == 0#8 && t.buzzer) = true := by decide

theorem test_ldVxDt_V_T5 : runs { State.reset with dt := 3 } 0xFB07 (fun t => t.getV 11 == 3#8 && t.dt == 3#8) = true := by decide

theorem test_tick_V_T3_T4_T7 :
    nextHolds (step { State.reset with dt := 5, st := 1, events := [.tick] })
        (fun t => t.dt == 4#8 && t.st == 0#8 && !t.buzzer && t.pc == 0x200#16) = true
      ∧ nextHolds (step { State.reset with events := [.tick] }) (fun t => t.dt == 0#8 && t.st == 0#8) = true
      ∧ nextHolds (step { State.reset with mode := .halted, st := 2, events := [.tick] })
          (fun t => t.st == 1#8 && t.mode == .halted) = true := by decide

theorem test_ldVxK_V_K1_K4_K5 :
    runs { State.reset with pc := 0x210 } 0xF30A (fun t => t.mode == .awaitKey && t.kreg == 3#4 && t.pc == 0x210#16
        && t.req.code == 3#2 && t.pending == some 3#4) = true
      ∧ runs { regs [(3, 9)] with pc := 0x210, key := some 0 } 0xF30A
          (fun t => t.getV 3 == 0#8 && t.pc == 0x212#16 && t.mode == .running && t.req.code == 0#2) = true
      ∧ runs { regs [(15, 1)] with key := some 0xC } 0xFF0A (fun t => t.getV 15 == 0x0C#8) = true := by decide

theorem test_key_wait_V_K2_K3_K6 :
    nextHolds (step { State.reset with pc := 0x210, mode := .awaitKey, kreg := 3, events := [.step none 0] })
        (fun t => t.mode == .awaitKey && t.pc == 0x210#16 && t.req.code == 3#2) = true
      ∧ nextHolds (step { State.reset with pc := 0x210, mode := .awaitKey, kreg := 3, events := [.step (some 0xB) 0] })
          (fun t => t.getV 3 == 0x0B#8 && t.pc == 0x212#16 && t.mode == .running && t.req.code == 0#2 && t.pending == none) = true
      ∧ nextHolds (step { State.reset with pc := 0x210, mode := .awaitKey, kreg := 3, events := [.reset] })
          (fun t => t.mode == .running && t.pc == 0x200#16) = true := by decide

/-! ### Undefined words and faults -/

theorem test_undefined_V_U1_U2 :
    runs State.reset 0x5001 (fun t => t == { State.reset.withFetchWord 16 0x5001 with
        pc := 0x202, warn := some 0x5001, events := [] }) = true
      ∧ runs State.reset 0x0000 (fun t => t.warn == some 0x0000#16 && t.pc == 0x202#16 && t.mode == .running) = true := by decide

theorem test_fetch_V_X1_X2_X3 :
    nextHolds (step { poke State.reset 0xFFE [0x12, 0x00] with pc := 0xFFE, events := [.step none 0] })
        (fun t => t.pc == 0x200#16 && t.mode == .running) = true
      ∧ nextHolds (step { State.reset with pc := 0xFFF, events := [.step none 0] })
          (fun t => t.mode == .halted && t.fcause.code == 1#3 && t.faddr == 0xFFF#17 && t.pc == 0xFFF#16) = true
      ∧ nextHolds (step { State.reset with pc := 0x1000, events := [.step none 0] })
          (fun t => t.fcause.code == 1#3 && t.faddr == 0x1000#17) = true := by
  decide

theorem test_halted_V_X4_X5 :
    nextHolds (step { State.reset with mode := .halted, fcause := .dataOob, faddr := 0x1000, events := [.step (some 1) 2] })
        (fun t => t.faultOut == some (.dataOob, 0x1000#17) && t.pc == 0x200#16 && t.req.code == 0#2 && t.warn == none) = true
      ∧ nextHolds (step { poke State.reset 0x300 [7] with
            mode := .halted, fcause := .dataOob, faddr := 0x1000, pc := 0x444, events := [.reset] })
          (fun t => t.mode.code == 0#2 && t.fcause.code == 0#3 && t.faddr == 0#17 && t.pc == 0x200#16 && t.readByte 0x300 == 7#8) = true := by
  decide

/-! ### Loading -/

theorem test_load_places_program_and_font :
    let s := State.reset.load { program := [0x12, 0x00], font := List.replicate 80 0xF0 }
    s.readByte 0x200 = 0x12#8 ∧ s.readByte 0x201 = 0 ∧ s.readByte 0 = 0xF0#8 ∧ s.readByte 79 = 0xF0#8 ∧ s.readByte 80 = 0
      ∧ Memory.wf s.mem = true := by decide

/-! ### Witnesses: what meets the hypotheses of the statements

One theorem, or several, for each statement of Certificates/Slice0/Obligations.lean that has hypotheses; the names say which. A
statement that only says "for every state and operands" needs none. -/

/-- A state about to run `w` with a full set of ordinary values. -/
def about (w : Nat) : State := (regs [(0, 0x62), (1, 0x77), (2, 0x80), (15, 1)]).withFetchWord 16 w

/-- Halted, with a fault on record. -/
def halted : State := { State.reset with mode := .halted, fcause := .dataOob, faddr := 0x1000, i := 0xFFE }

/-- A key wait at its own instruction. -/
def waiting : State := { poke State.reset 0x200 [0xF3, 0x0A] with mode := .awaitKey, kreg := 3 }

theorem witness_DecodeThenEncodeGivesTheWord : decode 0xD012#16 = .instr (.drw 0 1 2) := by decide

theorem witness_MaskAndMatch_row_of_an_instruction : decode 0x8476#16 = .instr (.shr 4 7) := by decide

theorem witness_MaskAndMatch_word_of_a_row :
    (0xF00F#16, 0x8006#16) ∈ opcodeMap ∧ 0x8476#16 &&& 0xF00F#16 = 0x8006#16 := by decide

theorem witness_StepRunsTheDecodedInstruction :
    (about 0x6A2F).nextEvent = .step none 0 ∧ (about 0x6A2F).mode = .running ∧ (about 0x6A2F).fetchable = true
      ∧ decodeBytes (Memory.readBytes (about 0x6A2F).mem (about 0x6A2F).pc.toNat 2) = (.instr (.ldImm 10 0x2F), [])
      ∧ (Instr.ldImm 10 0x2F).wf = true := by decide

theorem witness_StepRunsTheDecodedInstruction_last_place :
    let s := { poke State.reset 0xFFE [0x12, 0x00] with pc := 0xFFE, events := [.step (some 0) 0xFF] }
    s.nextEvent = .step (some 0) 0xFF ∧ s.mode = .running ∧ s.fetchable = true
      ∧ decodeBytes (Memory.readBytes s.mem s.pc.toNat 2) = (.instr (.jp 0x200), []) := by decide

theorem witness_StepTakesTheNextEvent_and_EveryInterleavingHappens : State.reset.events = [] := rfl

theorem witness_UndefinedOpcodeIsANoOpWithWarning :
    (about 0x5001).nextEvent = .step none 0 ∧ (about 0x5001).mode = .running ∧ (about 0x5001).fetchable = true
      ∧ (∀ p ∈ opcodeMap, (about 0x5001).fetchWord &&& p.1 ≠ p.2) := by
  have h : (about 0x5001).fetchWord = 0x5001#16 := by decide
  refine ⟨by decide, by decide, by decide, ?_⟩
  rw [h]
  intro p hp
  simp only [opcodeMap, opcodeMapLow, opcodeMapHigh, List.cons_append, List.nil_append, List.mem_cons, List.not_mem_nil,
    or_false] at hp
  rcases hp with rfl | rfl | rfl | rfl | rfl | rfl | rfl | rfl | rfl | rfl | rfl | rfl | rfl | rfl | rfl | rfl | rfl | rfl
    | rfl | rfl | rfl | rfl | rfl | rfl | rfl | rfl | rfl | rfl | rfl | rfl | rfl | rfl <;> decide

theorem witness_FetchOutOfBoundsHalts :
    (let s := { State.reset with pc := 0xFFF, events := [.step none 0] };
      s.nextEvent = .step none 0 ∧ s.mode = .running ∧ Config.memSize - 1 ≤ s.pc.toNat)
    ∧ (let s := { State.reset with pc := 0xFFE, events := [.step none 0] };
      s.nextEvent = .step none 0 ∧ s.mode = .running ∧ s.pc.toNat < Config.memSize - 1 ∧ s.fcause ≠ .fetchOob)
    ∧ (let s := { halted with pc := 0xFFFF, events := [.step none 0] };
      s.nextEvent = .step none 0 ∧ s.mode ≠ .running) := by decide

/-- The hypotheses of the fault table, in states that raise each of the four faults, and in one that raises none. -/
theorem witness_FaultCausesTable :
    [about 0x6A2F, { about 0x6A2F with pc := 0xFFF }, { about 0xF033 with i := 0xFFE }, { about 0x2300 with sp := 16 },
      about 0x00EE].all (fun s => decide (s.nextEvent = .step none 0 ∧ s.mode = .running ∧ s.fcause = .none ∧ s.faddr = 0#17
        ∧ s.sp.toNat ≤ 16)) = true := by decide

theorem witness_FaultsArePrecise_address : 0xFFFF < 131072 ∧ max 0xFFFF Config.memSize < 131072 := by decide

theorem witness_FaultsArePrecise : ∃ s t : State, step s = .next t ∧ s.mode ≠ .halted ∧ t.mode = .halted := by
  obtain ⟨t, h, ht⟩ := exists_next_of_nextHolds (r := step { about 0xF033 with i := 0xFFE }) (P := fun t => t.mode = .halted)
    (by decide)
  exact ⟨_, t, h, by decide, ht⟩

theorem witness_HaltedIsTerminal :
    ({ halted with events := [.step (some 1) 2] } : State).nextEvent = .step (some 1) 2 ∧ halted.mode = .halted
      ∧ (∃ t, step { halted with events := [.reset] } = .next t ∧ t.mode ≠ .halted)
      ∧ (∃ t, step { halted with events := [.tick] } = .next t ∧ t.mode = .halted) :=
  ⟨rfl, rfl, exists_next_of_nextHolds (by decide), exists_next_of_nextHolds (by decide)⟩

theorem witness_ModeTransitions :
    (∃ t, step (about 0xF30A) = .next t ∧ (about 0xF30A).mode = .running ∧ t.mode = .awaitKey)
      ∧ (∃ t, step { waiting with events := [.step (some 7) 0] } = .next t ∧ waiting.mode = .awaitKey ∧ t.mode ≠ .awaitKey)
      ∧ (∃ t, step { halted with events := [.reset] } = .next t ∧ halted.mode = .halted) :=
  ⟨exists_next_of_nextHolds (by decide), exists_next_of_nextHolds (by decide), exists_next_of_nextHolds (by decide)⟩

/-- A STEP after which each request, and the warning, shows. -/
theorem witness_StepOutputs :
    (∃ t, step (about 0xF30A) = .next t ∧ (about 0xF30A).nextEvent = .step none 0 ∧ t.req = .awaitKey)
      ∧ (∃ t, step (about 0x00E0) = .next t ∧ (about 0x00E0).nextEvent = .step none 0 ∧ t.req = .clearScreen)
      ∧ (∃ t, step (about 0xD010) = .next t ∧ (about 0xD010).nextEvent = .step none 0 ∧ t.req = .draw)
      ∧ (∃ t, step (about 0xE19E) = .next t ∧ (about 0xE19E).nextEvent = .step none 0 ∧ t.warn = some 0xE19E#16) :=
  ⟨exists_next_of_nextHolds (by decide), exists_next_of_nextHolds (by decide), exists_next_of_nextHolds (by decide),
    exists_next_of_nextHolds (by decide)⟩

theorem witness_SelfJumpChangesNothing : (about 0x1200).finished ∧ (about 0x1200).nextEvent = .step none 0 :=
  ⟨⟨by decide, by decide, 0x200, by decide, by decide⟩, by decide⟩

/-- Program P5's fourth step, at 0x200: the word stored over the next place is 0x6277. -/
theorem witness_StoredCodeIsFetched :
    let s := { about 0xF155 with i := 0x202, events := [.step none 0, .step (some 1) 2] }
    Memory.wf s.mem = true ∧ s.events = [.step none 0, .step (some 1) 2] ∧ s.mode = .running ∧ s.fetchable = true
      ∧ decode s.fetchWord = .instr (.stRegs 1) ∧ 1 ≤ (1 : Reg).toNat ∧ s.i.toNat = s.pc.toNat + 2
      ∧ s.i.toNat + (1 : Reg).toNat < Config.memSize
      ∧ decode (wordOfBytes (s.getV 0) (s.getV 1)) = .instr (.ldImm 2 0x77) := by decide

theorem witness_TickCountsDown : ({ State.reset with dt := 1, st := 255, events := [.tick] } : State).nextEvent = .tick := rfl

theorem witness_BuzzerFollowsTheSoundTimer_on :
    ∃ t, step (about 0xF018) = .next t ∧ (about 0xF018).buzzer = false ∧ t.buzzer = true := exists_next_of_nextHolds (by decide)

theorem witness_BuzzerFollowsTheSoundTimer_events :
    ({ State.reset with st := 1, events := [.tick] } : State).nextEvent = .tick
      ∧ ({ State.reset with st := 255, events := [.reset] } : State).nextEvent = .reset := by decide

theorem witness_BuzzerFollowsTheSoundTimer_off :
    (∃ t, step { State.reset with st := 1, events := [.tick] } = .next t
        ∧ ({ State.reset with st := 1, events := [.tick] } : State).buzzer = true ∧ t.buzzer = false)
      ∧ (∃ t, step { State.reset with st := 9, events := [.reset] } = .next t
        ∧ ({ State.reset with st := 9, events := [.reset] } : State).buzzer = true ∧ t.buzzer = false)
      ∧ (∃ t, step { about 0xF318 with st := 9 } = .next t ∧ ({ about 0xF318 with st := 9 } : State).buzzer = true
        ∧ t.buzzer = false) :=
  ⟨exists_next_of_nextHolds (by decide), exists_next_of_nextHolds (by decide), exists_next_of_nextHolds (by decide)⟩

theorem witness_ResetGivesTheResetValues : ({ halted with events := [.reset, .tick] } : State).nextEvent = .reset := rfl

theorem witness_InputsReachOneInstructionEach :
    (∀ x, Instr.rnd 3 0x0F ≠ .ldVxK x) ∧ (∀ x kk, Instr.ldVxK 3 ≠ .rnd x kk) := ⟨nofun, nofun⟩

/-- The invariant at the edges: a full stack, a halted machine, a key wait. -/
theorem witness_EveryStepKeepsTheInvariant :
    State.Inv { about 0x2300 with sp := 16, stack := Vector.replicate 16 0xFFE } ∧ State.Inv halted ∧ State.Inv waiting := by
  refine ⟨⟨by decide, by decide, ?_, by decide, by decide, by decide⟩, ⟨by decide, by decide, ?_, by decide, by decide, by decide⟩,
    ⟨by decide, by decide, ?_, by decide, by decide, fun _ => ⟨by decide, by decide⟩⟩⟩
  · intro k h _
    simp
  · intro k h hk
    simp [halted, State.reset] at hk
  · intro k h hk
    simp [waiting, poke, State.reset] at hk

theorem witness_EveryStepKeepsTheHaltReport :
    let s := { poke halted 0x200 [0xF0, 0x33] with events := [.tick] }
    s.Inv ∧ s.HaltReported ∧ ∃ t, step s = .next t := by
  refine ⟨⟨by decide, by decide, ?_, by decide, by decide, by decide⟩, ⟨by decide, by decide, .ldB 0, by decide, by decide, by decide⟩,
    _, rfl⟩
  intro k h hk
  simp [poke, halted, State.reset] at hk

/-- An instruction of each kind that changes the element, in the order of the statement's clauses. -/
theorem witness_ElementWriters :
    (∃ t, exec (.ldI 0x300) State.reset = .next t ∧ t.i ≠ State.reset.i)
      ∧ (∃ t, exec (.call 0x300) State.reset = .next t ∧ t.sp ≠ State.reset.sp ∧ t.stack ≠ State.reset.stack)
      ∧ (∃ t, exec (.ldDtVx 0) (about 0) = .next t ∧ t.dt ≠ (about 0).dt)
      ∧ (∃ t, exec (.ldStVx 0) (about 0) = .next t ∧ t.st ≠ (about 0).st)
      ∧ (∃ t, exec (.ldVxK 3) State.reset = .next t ∧ t.kreg ≠ State.reset.kreg ∧ t.mode ≠ State.reset.mode)
      ∧ (∃ t, exec .cls { State.reset with fb := Framebuffer.blank.setPixel 0 0 true } = .next t
        ∧ t.fb ≠ Framebuffer.blank.setPixel 0 0 true)
      ∧ (∃ t, exec (.stRegs 0) (about 0) = .next t ∧ t.mem ≠ (about 0).mem)
      ∧ (∃ t, exec .ret State.reset = .next t ∧ t.mode ≠ State.reset.mode) :=
  ⟨exists_next_of_nextHolds (by decide), exists_next_of_nextHolds (by decide), exists_next_of_nextHolds (by decide),
    exists_next_of_nextHolds (by decide), exists_next_of_nextHolds (by decide), exists_next_of_nextHolds (by decide),
    exists_next_of_nextHolds (by decide), exists_next_of_nextHolds (by decide)⟩

theorem witness_RegisterAndFlagWriters :
    (∃ t, exec (.ldImm 3 9) State.reset = .next t ∧ t.getV 3 ≠ State.reset.getV 3)
      ∧ (∃ t, exec (.addReg 1 2) (about 0) = .next t ∧ (Instr.addReg 1 2).writesFlag = true ∧ (about 0).mode = .running
        ∧ t.mode = .running ∧ t.getV vf ≠ (about 0).getV vf) :=
  ⟨exists_next_of_nextHolds (by decide), exists_next_of_nextHolds (by decide)⟩

theorem witness_RetPops :
    ({ State.reset with sp := 1 } : State).sp.toNat = 0 + 1 ∧ (0 : Nat) < Config.stackDepth
      ∧ ({ State.reset with sp := 16 } : State).sp.toNat = 15 + 1 ∧ (15 : Nat) < Config.stackDepth ∧ State.reset.sp = 0#8 := by decide

theorem witness_CallPushesItsOwnAddress :
    State.reset.sp.toNat < 16 ∧ ({ State.reset with sp := 15 } : State).sp.toNat < 16
      ∧ ({ State.reset with sp := 16 } : State).sp = 16#8 := by decide

theorem witness_DepthBeyondSixteenStops :
    16 < ({ State.reset with sp := 17 } : State).sp.toNat ∧ 16 < ({ State.reset with sp := 255 } : State).sp.toNat := by decide

/-- The call at depth 15; the return is met by the very state the call leaves. -/
theorem witness_CallThenReturnRoundTrip :
    ({ State.reset with sp := 15 } : State).sp.toNat < 16
      ∧ (∃ t, exec (.call 0x300) { State.reset with sp := 15 } = .next t ∧ t.sp = 16#8)
      ∧ (Instr.cls ≠ .ret ∧ (∀ nnn, Instr.cls ≠ .call nnn) ∧ ∃ t, exec .cls State.reset = .next t) :=
  ⟨by decide, exists_next_of_nextHolds (by decide), by decide, nofun, _, rfl⟩

theorem witness_BcdStoresThreeDigits :
    Memory.wf State.reset.mem = true ∧ ({ State.reset with i := 0xFFD } : State).effAddr 2 < Config.memSize
      ∧ Config.memSize ≤ ({ State.reset with i := 0xFFE } : State).effAddr 2
      ∧ Config.memSize ≤ ({ State.reset with i := 0xFFFF } : State).effAddr 2 := by decide

theorem witness_StoreRegisters_and_LoadRegisters :
    Memory.wf State.reset.mem = true
      ∧ ({ State.reset with i := 0xFF0 } : State).effAddr (0xF : Reg).toNat < Config.memSize
      ∧ ({ State.reset with i := 0xFFF } : State).effAddr (0x0 : Reg).toNat < Config.memSize
      ∧ Config.memSize ≤ ({ State.reset with i := 0xFF1 } : State).effAddr (0xF : Reg).toNat
      ∧ Config.memSize ≤ ({ State.reset with i := 0x1000 } : State).effAddr (0x0 : Reg).toNat := by decide

theorem witness_DataFaultsExactly : State.reset.mode = .running := rfl

/-- No row at all, where `I` may be anything; and a sprite that ends at the last cell. -/
theorem witness_DrawTogglesTheSpritesPixels :
    ((0x0 : Nibble) = 0x0#4 ∨ ({ State.reset with i := 0xFFFF } : State).i.toNat + (0x0 : Nibble).toNat ≤ Config.memSize)
      ∧ ((0xF : Nibble) = 0x0#4 ∨ ({ State.reset with i := 0xFF1 } : State).i.toNat + (0xF : Nibble).toNat ≤ Config.memSize) := by decide

/-- Both outcomes of the flag: the first draw of a set bit collides with nothing, or with the pixel it lands on. -/
theorem witness_DrawTogglesTheSpritesPixels_collision :
    let s := { about 0xD331 with i := 0x300, mem := [(0x300, 0x80)], fb := Framebuffer.blank.setPixel 0 0 true }
    s.Toggles 3 3 0x1 0 0 ∧ s.readPort 0 0 = true := by
  exact ⟨⟨0, 0, by decide, by decide, by decide, by decide, by decide⟩, by decide⟩

theorem witness_DrawOutOfBoundsFaults :
    let s := { State.reset with i := 0xFFF }
    0 < (0x2 : Nibble).toNat ∧ Config.memSize ≤ s.i.toNat + (0x2 : Nibble).toNat - 1 := by decide

/-- The second draw is met by the state the first leaves; the wrapped row by the origin (63, 31). -/
theorem witness_DrawTwiceRestoresAndWraps :
    (∃ t, exec (.drw 0 1 0x1) { about 0 with i := 0x200 } = .next t ∧ t.i = 0x200#16 ∧ t.mem = (about 0).mem
        ∧ t.getV 0 = (about 0).getV 0 ∧ t.getV 1 = (about 0).getV 1)
      ∧ (let s := { regs [(0, 63), (1, 31)] with i := 0xFFF };
        s.i.toNat + 1 ≤ Config.memSize ∧ (s.getV 0).toNat = Config.fbWidth - 1 ∧ (s.getV 1).toNat = Config.fbHeight - 1) :=
  ⟨exists_next_of_nextHolds (by decide), by decide⟩

theorem witness_TimerMoves :
    ∃ t, step (about 0xF015) = .next t ∧ (about 0xF015).dt.toNat < t.dt.toNat := exists_next_of_nextHolds (by decide)

theorem witness_KeyWaitCompletesOnAKey :
    ({ State.reset with key := some 0 } : State).key = some 0 ∧ State.reset.key = none ∧ waiting.mode = .awaitKey
      ∧ ({ waiting with events := [.step (some 0xF) 0] } : State).nextEvent = .step (some 0xF) 0
      ∧ ({ waiting with events := [.step none 0] } : State).nextEvent = .step none 0
      ∧ ({ waiting with events := [.tick] } : State).nextEvent = .tick := by decide

end Sys2Proof.Tests
end

section
/-! PROOFS. The decoder against the opcode map (30_encoding.md R94 to R96): a word that decodes is its instruction's encoding, so
it matches its instruction's row; a word of no row is rejected, and its STEP is the no-op with the warning. -/

namespace Sys2Proof

/-! ### A word of a known group is its fields in each format -/

theorem groupNnn_eq_self {w : Word} {g : Nibble} (hg : (fieldG w).toNat = g.toNat) : groupNnn g (fieldNnn w) = w := by
  rw [← BitVec.eq_of_toNat_eq hg, groupNnn_fields]

theorem groupXKk_eq_self {w : Word} {g : Nibble} (hg : (fieldG w).toNat = g.toNat) :
    groupXKk g (fieldX w) (fieldKk w) = w := by
  rw [← BitVec.eq_of_toNat_eq hg, groupXKk_fields]

theorem groupXKk_eq_self_of_kk {w : Word} {g : Nibble} {kk : Byte} (hg : (fieldG w).toNat = g.toNat)
    (hk : (fieldKk w).toNat = kk.toNat) : groupXKk g (fieldX w) kk = w := by
  rw [← BitVec.eq_of_toNat_eq hk, groupXKk_eq_self hg]

theorem nibbles_eq_self {w : Word} {g : Nibble} (hg : (fieldG w).toNat = g.toNat) :
    nibbles g (fieldX w) (fieldY w) (fieldN w) = w := by
  rw [← BitVec.eq_of_toNat_eq hg, nibbles_fields]

theorem nibbles_eq_self_of_n {w : Word} {g n : Nibble} (hg : (fieldG w).toNat = g.toNat) (hn : (fieldN w).toNat = n.toNat) :
    nibbles g (fieldX w) (fieldY w) n = w := by
  rw [← BitVec.eq_of_toNat_eq hn, nibbles_eq_self hg]

/-! ### Decoding loses no bit of the word -/

theorem encode_of_decodeGroup8 {w : Word} {i : Instr} (hg : (fieldG w).toNat = 0x8) (h : decodeGroup8 w = .instr i) :
    encode i = w := by
  unfold decodeGroup8 at h
  split at h <;> cases h <;> exact nibbles_eq_self_of_n hg ‹_›

theorem encode_of_decodeGroupF {w : Word} {i : Instr} (hg : (fieldG w).toNat = 0xF) (h : decodeGroupF w = .instr i) :
    encode i = w := by
  unfold decodeGroupF at h
  split at h <;> cases h <;> exact groupXKk_eq_self_of_kk hg ‹_›

/-- The word of a decoded instruction is its encoding (R92, R95): one case for each group of the decoder, closed by the group's
format. -/
theorem encode_of_decode {w : Word} {i : Instr} (h : decode w = .instr i) : encode i = w := by
  unfold decode at h
  split at h
  case h_1 =>
    split at h
    · cases h; exact Eq.symm ‹_›
    · split at h <;> cases h
      exact Eq.symm ‹_›
  case h_2 hg => cases h; exact groupNnn_eq_self hg
  case h_3 hg => cases h; exact groupNnn_eq_self hg
  case h_4 hg => cases h; exact groupXKk_eq_self hg
  case h_5 hg => cases h; exact groupXKk_eq_self hg
  case h_6 hg =>
    split at h <;> cases h
    exact nibbles_eq_self_of_n hg (congrArg BitVec.toNat ‹_›)
  case h_7 hg => cases h; exact groupXKk_eq_self hg
  case h_8 hg => cases h; exact groupXKk_eq_self hg
  case h_9 hg => exact encode_of_decodeGroup8 hg h
  case h_10 hg =>
    split at h <;> cases h
    exact nibbles_eq_self_of_n hg (congrArg BitVec.toNat ‹_›)
  case h_11 hg => cases h; exact groupNnn_eq_self hg
  case h_12 hg => cases h; exact groupNnn_eq_self hg
  case h_13 hg => cases h; exact groupXKk_eq_self hg
  case h_14 hg => cases h; exact nibbles_eq_self hg
  case h_15 hg => exact encode_of_decodeGroupF hg h
  case h_16 => cases h

/-! ### A decoded word matches its instruction's row -/

open Laws in
/-- Every instruction's encoding lies under its row of the opcode map: the per-constructor statements, as one. -/
theorem encode_matches_row (i : Instr) : RowOfTheMap.Statement i :=
  match i with
  | .cls => RowOfTheMap.cls
  | .ret => RowOfTheMap.ret
  | .jp nnn => RowOfTheMap.jp nnn
  | .call nnn => RowOfTheMap.call nnn
  | .seImm x kk => RowOfTheMap.seImm x kk
  | .sneImm x kk => RowOfTheMap.sneImm x kk
  | .seReg x y => RowOfTheMap.seReg x y
  | .ldImm x kk => RowOfTheMap.ldImm x kk
  | .addImm x kk => RowOfTheMap.addImm x kk
  | .ldReg x y => RowOfTheMap.ldReg x y
  | .orReg x y => RowOfTheMap.orReg x y
  | .andReg x y => RowOfTheMap.andReg x y
  | .xorReg x y => RowOfTheMap.xorReg x y
  | .addReg x y => RowOfTheMap.addReg x y
  | .subReg x y => RowOfTheMap.subReg x y
  | .shr x y => RowOfTheMap.shr x y
  | .subnReg x y => RowOfTheMap.subnReg x y
  | .shl x y => RowOfTheMap.shl x y
  | .sneReg x y => RowOfTheMap.sneReg x y
  | .ldI nnn => RowOfTheMap.ldI nnn
  | .jpV0 nnn => RowOfTheMap.jpV0 nnn
  | .rnd x kk => RowOfTheMap.rnd x kk
  | .drw x y n => RowOfTheMap.drw x y n
  | .ldVxDt x => RowOfTheMap.ldVxDt x
  | .ldVxK x => RowOfTheMap.ldVxK x
  | .ldDtVx x => RowOfTheMap.ldDtVx x
  | .ldStVx x => RowOfTheMap.ldStVx x
  | .addI x => RowOfTheMap.addI x
  | .ldF x => RowOfTheMap.ldF x
  | .ldB x => RowOfTheMap.ldB x
  | .stRegs x => RowOfTheMap.stRegs x
  | .ldRegs x => RowOfTheMap.ldRegs x

/-- A word that decodes is selected by its instruction's row (R94). -/
theorem decode_matches_row {w : Word} {i : Instr} (h : decode w = .instr i) :
    w &&& i.mask = i.matchValue ∧ (i.mask, i.matchValue) ∈ opcodeMap :=
  encode_of_decode h ▸ encode_matches_row i

namespace Machine

/-! ### The no-op with the warning -/

theorem execUndef_onlyChanges (w : Word) (s : State) : s.OnlyChanges (execUndef w s) [.pc, .warn] := by
  intro f hf
  cases f <;> simp_all [State.sameField, State.readByte]

/-- The whole STEP of an undefined word, from the state before its event is taken: `pc` and the ports only. -/
theorem execUndef_begin_onlyChanges (w : Word) (s : State) (k : Option Nibble) (r : Byte) :
    s.OnlyChanges (execUndef w (s.takeEvent.beginStep k r)) (.pc :: ports) :=
  ((s.onlyChanges_begin k r).mono (by decide)).trans ((execUndef_onlyChanges w _).mono (by decide))

/-- A STEP of a word of no row of the opcode map runs the undefined-opcode rule (R96). -/
theorem step_of_undefined {s : State} {k : Option Nibble} {r : Byte} (he : s.nextEvent = .step k r) (hm : s.mode = .running)
    (hf : s.fetchable = true) (hw : ∀ p ∈ opcodeMap, s.fetchWord &&& p.1 ≠ p.2) :
    step s = .next (execUndef s.fetchWord (s.takeEvent.beginStep k r)) := by
  rcases step_of_running he hm with ⟨hnf, -⟩ | ⟨-, i, hd, -⟩ | ⟨-, -, hs⟩
  · simp [hf] at hnf
  · obtain ⟨hmatch, hrow⟩ := decode_matches_row hd
    exact absurd hmatch (hw _ hrow)
  · exact hs

end Machine

end Sys2Proof

open Sys2Proof Sys2Proof.Machine

/-- Settles O8: a word of no row of the map is not decoded, so its STEP is `execUndef`, whose fields and frame are read off. -/
theorem undefinedOpcodeIsANoOpWithWarning : Obligations.UndefinedOpcodeIsANoOpWithWarning := by
  unfold Obligations.UndefinedOpcodeIsANoOpWithWarning
  intro s key rand he hm hf hw
  exact ⟨_, step_of_undefined he hm hf hw, by simp, by simp, by simp [State.nextPc_toNat],
    execUndef_begin_onlyChanges _ s key rand⟩
end

section
/-! PROOFS. The jumps and the conditional skips (40_flow.md R122, R124 to R128): their words decode, and each moves `pc` and
nothing else, a jump to its target, a skip by 4 or 2. -/

namespace Sys2Proof

/-! ### The words of the six instructions decode -/

theorem decode_encode_jp (nnn : Imm12) : decode (encode (.jp nnn)) = .instr (.jp nnn) := by simp [decode, encode]

theorem decode_encode_jpV0 (nnn : Imm12) : decode (encode (.jpV0 nnn)) = .instr (.jpV0 nnn) := by simp [decode, encode]

theorem decode_encode_seImm (x : Reg) (kk : Byte) : decode (encode (.seImm x kk)) = .instr (.seImm x kk) := by
  simp [decode, encode]

theorem decode_encode_sneImm (x : Reg) (kk : Byte) : decode (encode (.sneImm x kk)) = .instr (.sneImm x kk) := by
  simp [decode, encode]

theorem decode_encode_seReg (x y : Reg) : decode (encode (.seReg x y)) = .instr (.seReg x y) := by simp [decode, encode]

theorem decode_encode_sneReg (x y : Reg) : decode (encode (.sneReg x y)) = .instr (.sneReg x y) := by simp [decode, encode]

namespace Machine

/-! ### A write of `pc` -/

theorem State.setPc_onlyChanges (s : State) (w : Word) : s.OnlyChanges (s.setPc w) [.pc] := by
  intro f hf
  cases f <;> simp_all [State.sameField, State.readByte]

/-- An instruction that sets `pc` to `w` goes there and changes nothing else (R120 c). -/
theorem exec_jump {i : Instr} {s : State} {w : Word} {n : Nat} (h : exec i s = .next (s.setPc w)) (hw : w.toNat = n) :
    ∃ t, exec i s = .next t ∧ t.pc.toNat = n ∧ s.OnlyChanges t [.pc] :=
  ⟨_, h, hw, s.setPc_onlyChanges w⟩

/-- The sum of `Bnnn` is at most 0x10FE, so reduction modulo 65536 does not show (R128). -/
theorem jpV0Target_toNat (s : State) (nnn : Imm12) :
    (s.getV16 0x0#4 + addrOfNnn nnn).toNat = (s.getV 0x0#4).toNat + nnn.toNat := by
  have hv : (s.getV16 0x0#4).toNat = (s.getV 0x0#4).toNat := BitVec.toNat_setWidth_of_le (by decide)
  have hb := (s.getV 0x0#4).isLt
  have hn := nnn.isLt
  rw [BitVec.toNat_add, addrOfNnn_toNat, hv]
  omega

/-! ### The conditional skip (R120 d) -/

theorem State.skipIf_pc_toNat (s : State) (c : Bool) :
    (s.skipIf c).pc.toNat = (s.pc.toNat + if c then 4 else 2) % 65536 := by
  cases c <;> simp [State.nextPc_toNat, State.skipPc_toNat]

/-- A skip on equal bytes, as the numbers they hold. -/
theorem exec_skip_of_eq {i : Instr} {s : State} {a b : Byte} (h : exec i s = .next (s.skipIf (a == b))) :
    ∃ t, exec i s = .next t ∧ t.pc.toNat = (s.pc.toNat + if a.toNat = b.toNat then 4 else 2) % 65536
      ∧ s.OnlyChanges t [.pc] :=
  exec_jump h ((s.skipIf_pc_toNat _).trans (by simp [BitVec.toNat_inj]))

/-- A skip on different bytes, as the numbers they hold. -/
theorem exec_skip_of_ne {i : Instr} {s : State} {a b : Byte} (h : exec i s = .next (s.skipIf (!(a == b)))) :
    ∃ t, exec i s = .next t ∧ t.pc.toNat = (s.pc.toNat + if a.toNat = b.toNat then 2 else 4) % 65536
      ∧ s.OnlyChanges t [.pc] :=
  exec_jump h ((s.skipIf_pc_toNat _).trans (by by_cases hab : a = b <;> simp [hab, BitVec.toNat_inj]))

end Machine

end Sys2Proof

open Sys2Proof Sys2Proof.Machine

/-- Settles O30: both jumps are a write of `pc`; the target of `Bnnn` is the sum itself because it fits 16 bits. -/
theorem jumpsSetPc : Obligations.JumpsSetPc := by
  unfold Obligations.JumpsSetPc
  intro nnn s
  exact ⟨⟨decode_encode_jp nnn, exec_jump rfl (addrOfNnn_toNat nnn)⟩,
    ⟨decode_encode_jpV0 nnn, exec_jump rfl (jpV0Target_toNat s nnn)⟩⟩

/-- Settles O34: the four skips are two on equal and two on different bytes. -/
theorem skipsCompare : Obligations.SkipsCompare := by
  unfold Obligations.SkipsCompare
  intro x y kk s
  exact ⟨⟨decode_encode_seImm x kk, exec_skip_of_eq rfl⟩, ⟨decode_encode_sneImm x kk, exec_skip_of_ne rfl⟩,
    ⟨decode_encode_seReg x y, exec_skip_of_eq rfl⟩, ⟨decode_encode_sneReg x y, exec_skip_of_ne rfl⟩⟩
end

section
/-! PROOFS. The register load, arithmetic, shift and random instructions (41_alu.md R130 to R132, R136 to R141): their words
decode, and each is a plain write or a write of a result and its flag, so that what is left for each is the arithmetic of the
two values it writes. -/

namespace Sys2Proof

/-! ### The words of the nine instructions decode -/

theorem decode_encode_ldImm (x : Reg) (kk : Byte) : decode (encode (.ldImm x kk)) = .instr (.ldImm x kk) := by
  simp [decode, encode]

theorem decode_encode_addImm (x : Reg) (kk : Byte) : decode (encode (.addImm x kk)) = .instr (.addImm x kk) := by
  simp [decode, encode]

theorem decode_encode_rnd (x : Reg) (kk : Byte) : decode (encode (.rnd x kk)) = .instr (.rnd x kk) := by
  simp [decode, encode]

/-- A word of group 8 is decoded by its low nibble (R94). -/
theorem decode_nibbles_8 (x y : Reg) (n : Nibble) : decode (nibbles 0x8#4 x y n) = decodeGroup8 (nibbles 0x8#4 x y n) := by
  simp [decode]

theorem decode_encode_ldReg (x y : Reg) : decode (encode (.ldReg x y)) = .instr (.ldReg x y) := by
  simp [encode, decode_nibbles_8, decodeGroup8]

theorem decode_encode_addReg (x y : Reg) : decode (encode (.addReg x y)) = .instr (.addReg x y) := by
  simp [encode, decode_nibbles_8, decodeGroup8]

theorem decode_encode_subReg (x y : Reg) : decode (encode (.subReg x y)) = .instr (.subReg x y) := by
  simp [encode, decode_nibbles_8, decodeGroup8]

theorem decode_encode_shr (x y : Reg) : decode (encode (.shr x y)) = .instr (.shr x y) := by
  simp [encode, decode_nibbles_8, decodeGroup8]

theorem decode_encode_subnReg (x y : Reg) : decode (encode (.subnReg x y)) = .instr (.subnReg x y) := by
  simp [encode, decode_nibbles_8, decodeGroup8]

theorem decode_encode_shl (x y : Reg) : decode (encode (.shl x y)) = .instr (.shl x y) := by
  simp [encode, decode_nibbles_8, decodeGroup8]

namespace Machine

/-! ### A plain write (R22) -/

theorem State.writePlain_pc_toNat (s : State) (x : Reg) (b : Byte) :
    (s.writePlain x b).pc.toNat = (s.pc.toNat + 2) % 65536 := s.nextPc_toNat

theorem State.writePlain_onlyChanges (s : State) (x : Reg) (b : Byte) : s.OnlyChanges (s.writePlain x b) [.v, .pc] := by
  intro f hf
  cases f <;> simp_all [State.sameField, State.readByte]

theorem State.getV_writePlain_self (s : State) (x : Reg) (b : Byte) : (s.writePlain x b).getV x = b := by simp

/-- What a plain write leaves: every other register, `VF` included, and every field but `V`; `pc` goes to the next word. -/
theorem State.writePlain_frame (s : State) (x : Reg) (b : Byte) :
    (∀ j, j ≠ x → (s.writePlain x b).getV j = s.getV j)
      ∧ (s.writePlain x b).pc.toNat = (s.pc.toNat + 2) % 65536 ∧ s.OnlyChanges (s.writePlain x b) [.v, .pc] :=
  ⟨fun j hj => by simp [hj], s.writePlain_pc_toNat x b, s.writePlain_onlyChanges x b⟩

/-! ### A write of a result and its flag (R10) -/

theorem State.writeFlagged_onlyChanges (s : State) (x : Reg) (b flag : Byte) :
    s.OnlyChanges (s.writeFlagged x b flag) [.v, .pc] := by
  intro f hf
  cases f <;> simp_all [State.sameField, State.readByte]

/-- The flag is the last write: `VF` holds it whatever `x`, `x` = 15 included. -/
theorem State.getV_writeFlagged_vf (s : State) (x : Reg) (b f : Byte) : (s.writeFlagged x b f).getV 0xF#4 = f := by simp [vf]

theorem State.getV_writeFlagged_self (s : State) {x : Reg} (b f : Byte) (hx : x ≠ 0xF#4) :
    (s.writeFlagged x b f).getV x = b := by simp [vf, hx]

/-- What a write of a result and its flag leaves: every register but `V[x]` and `VF`, and every field but `V`; `pc` goes to the
next word. -/
theorem State.writeFlagged_frame (s : State) (x : Reg) (b f : Byte) :
    (∀ j, j ≠ x → j ≠ 0xF#4 → (s.writeFlagged x b f).getV j = s.getV j)
      ∧ (s.writeFlagged x b f).pc.toNat = (s.pc.toNat + 2) % 65536 ∧ s.OnlyChanges (s.writeFlagged x b f) [.v, .pc] :=
  ⟨fun j hx hvf => by simp [vf, hx, hvf], s.nextPc_toNat, s.writeFlagged_onlyChanges x b f⟩

/-! ### The values written, as numbers -/

theorem carryFlag_eq (a b : Byte) : carryFlag a b = if a.toNat + b.toNat > 255 then 0x01#8 else 0x00#8 := by
  simp [carryFlag, flagByte]

theorem greaterFlag_eq (a b : Byte) : greaterFlag a b = if a.toNat > b.toNat then 0x01#8 else 0x00#8 := by
  simp [greaterFlag, flagByte]

theorem shiftedOutLow_toNat (a : Byte) : (shiftedOutLow a).toNat = a.toNat % 2 := by
  simp [shiftedOutLow, Nat.and_one_is_mod]

/-- The bit a left shift moves out is bit 7, the only one left of a byte after seven places. -/
theorem shiftedOutHigh_toNat (a : Byte) : (shiftedOutHigh a).toNat = a.toNat / 128 := by
  have hmask : (0x80#8).toNat >>> 7 = 1 := rfl
  have ha := a.isLt
  rw [shiftedOutHigh, BitVec.toNat_ushiftRight, BitVec.toNat_and, Nat.shiftRight_and_distrib, hmask, Nat.and_one_is_mod,
    Nat.shiftRight_eq_div_pow]
  omega

/-- The difference of two bytes is the integer difference modulo 256. -/
theorem toNat_sub_eq_int_emod (a b : Byte) : ((a - b).toNat : Int) = (a.toNat - b.toNat : Int) % 256 := by
  have hb := b.isLt
  rw [BitVec.toNat_sub]
  omega

theorem toNat_ushiftRight_one (a : Byte) : (a >>> 1).toNat = a.toNat / 2 := by
  rw [BitVec.toNat_ushiftRight, Nat.shiftRight_eq_div_pow, Nat.pow_one]

theorem toNat_shiftLeft_one (a : Byte) : (a <<< 1).toNat = 2 * a.toNat % 256 := by
  rw [BitVec.toNat_shiftLeft, Nat.shiftLeft_eq, Nat.pow_one, Nat.mul_comm]

end Machine

end Sys2Proof

open Sys2Proof Sys2Proof.Machine

/-- Settles O35: both loads are a plain write, of `kk` and of the old `V[y]`. -/
theorem loadsMoveAByte : Obligations.LoadsMoveAByte := by
  unfold Obligations.LoadsMoveAByte
  intro x y kk s
  exact ⟨⟨decode_encode_ldImm x kk, _, rfl, fun j => s.getV_writePlain x j _, s.writePlain_pc_toNat x _,
      s.writePlain_onlyChanges x _⟩,
    ⟨decode_encode_ldReg x y, _, rfl, fun j => s.getV_writePlain x j _, s.writePlain_pc_toNat x _,
      s.writePlain_onlyChanges x _⟩⟩

/-- Settles O37: a plain write of the sum, so no flag; addition of bytes is modulo 256. -/
theorem addImmediateWritesNoFlag : Obligations.AddImmediateWritesNoFlag := by
  unfold Obligations.AddImmediateWritesNoFlag
  intro x kk s
  exact ⟨decode_encode_addImm x kk, _, rfl, by rw [State.getV_writePlain_self, BitVec.toNat_add], s.writePlain_frame x _⟩

/-- Settles O38: the flag, written last, is the carry of the old operands for every `x`. -/
theorem addWritesSumThenCarry : Obligations.AddWritesSumThenCarry := by
  unfold Obligations.AddWritesSumThenCarry
  intro x y s
  exact ⟨decode_encode_addReg x y, _, rfl, (s.getV_writeFlagged_vf x _ _).trans (carryFlag_eq _ _),
    fun hx => by rw [s.getV_writeFlagged_self _ _ hx, BitVec.toNat_add], s.writeFlagged_frame x _ _⟩

/-- Settles O39: the two subtractions are one argument with the operands exchanged. -/
theorem subtractionsWriteDifferenceThenGreater : Obligations.SubtractionsWriteDifferenceThenGreater := by
  unfold Obligations.SubtractionsWriteDifferenceThenGreater
  intro x y s
  exact ⟨⟨decode_encode_subReg x y, _, rfl, (s.getV_writeFlagged_vf x _ _).trans (greaterFlag_eq _ _),
      fun hx => by rw [s.getV_writeFlagged_self _ _ hx, toNat_sub_eq_int_emod], s.writeFlagged_frame x _ _⟩,
    ⟨decode_encode_subnReg x y, _, rfl, (s.getV_writeFlagged_vf x _ _).trans (greaterFlag_eq _ _),
      fun hx => by rw [s.getV_writeFlagged_self _ _ hx, toNat_sub_eq_int_emod], s.writeFlagged_frame x _ _⟩⟩

/-- Settles O40: both shifts write a value of the old `V[x]` alone, then the bit shifted out of it, whatever `y`. -/
theorem shiftsWriteResultThenBitShiftedOut : Obligations.ShiftsWriteResultThenBitShiftedOut := by
  unfold Obligations.ShiftsWriteResultThenBitShiftedOut
  intro x y s
  exact ⟨⟨decode_encode_shr x y, _, rfl, by rw [s.getV_writeFlagged_vf, shiftedOutLow_toNat],
      fun hx => by rw [s.getV_writeFlagged_self _ _ hx, toNat_ushiftRight_one], s.writeFlagged_frame x _ _⟩,
    ⟨decode_encode_shl x y, _, rfl, by rw [s.getV_writeFlagged_vf, shiftedOutHigh_toNat],
      fun hx => by rw [s.getV_writeFlagged_self _ _ hx, toNat_shiftLeft_one], s.writeFlagged_frame x _ _⟩⟩

/-- Settles O41: a plain write of RAND AND `kk`, whose bits and bound are those of the bitwise AND. -/
theorem randomIsMasked : Obligations.RandomIsMasked := by
  unfold Obligations.RandomIsMasked
  intro x kk s
  refine ⟨decode_encode_rnd x kk, _, rfl, fun b _ => ?_, ?_, s.writePlain_frame x _⟩
  · rw [State.getV_writePlain_self, BitVec.getLsbD_and]
  · rw [State.getV_writePlain_self, BitVec.toNat_and]
    exact Nat.and_le_right
end

section
/-! PROOFS. The address register and the memory instructions (42_index_memory.md R150, R151, R153 to R155): their words decode;
a write of `I` and nothing else; a range check, and then a block store or a block load, or the DATA_OOB fault. -/

namespace Sys2Proof

/-! ### The words of the five instructions decode -/

theorem decode_encode_ldI (nnn : Imm12) : decode (encode (.ldI nnn)) = .instr (.ldI nnn) := by simp [decode, encode]

/-- A word of group F is decoded by its low byte (R94). -/
theorem decode_groupXKk_F (x : Reg) (kk : Byte) : decode (groupXKk 0xF#4 x kk) = decodeGroupF (groupXKk 0xF#4 x kk) := by
  simp [decode]

theorem decode_encode_addI (x : Reg) : decode (encode (.addI x)) = .instr (.addI x) := by
  simp [encode, decode_groupXKk_F, decodeGroupF]

theorem decode_encode_ldB (x : Reg) : decode (encode (.ldB x)) = .instr (.ldB x) := by
  simp [encode, decode_groupXKk_F, decodeGroupF]

theorem decode_encode_stRegs (x : Reg) : decode (encode (.stRegs x)) = .instr (.stRegs x) := by
  simp [encode, decode_groupXKk_F, decodeGroupF]

theorem decode_encode_ldRegs (x : Reg) : decode (encode (.ldRegs x)) = .instr (.ldRegs x) := by
  simp [encode, decode_groupXKk_F, decodeGroupF]

namespace Machine

/-! ### A write of `I` -/

theorem State.writeI_onlyChanges (s : State) (w : Word) : s.OnlyChanges { s with i := w }.advance [.i, .pc] := by
  intro f hf
  cases f <;> simp_all [State.sameField, State.readByte]

/-- An instruction that sets `I` to `w` goes to the next word and changes nothing else, `VF` included. -/
theorem exec_writeI {i : Instr} {s : State} {w : Word} {n : Nat} (h : exec i s = .next { s with i := w }.advance)
    (hw : w.toNat = n) :
    ∃ t, exec i s = .next t ∧ t.i.toNat = n ∧ t.pc.toNat = (s.pc.toNat + 2) % 65536 ∧ s.OnlyChanges t [.i, .pc] :=
  ⟨_, h, hw, s.nextPc_toNat, s.writeI_onlyChanges w⟩

/-- The sum of `Fx1E` is reduced modulo 65536 (R151). -/
theorem add_getV16_toNat (s : State) (x : Reg) :
    (s.i + s.getV16 x).toNat = (s.i.toNat + (s.getV x).toNat) % 65536 := by
  have hv : (s.getV16 x).toNat = (s.getV x).toNat := BitVec.toNat_setWidth_of_le (by decide)
  rw [BitVec.toNat_add, hv]

/-! ### The range check of an access to the bytes at `I` to `I + n` (R70) -/

theorem checkRange_of_last_lt {s k : State} {n : Nat} (h : s.effAddr n < Config.memSize) :
    checkRange (s.effAddr 0) (n + 1) s k = .next k :=
  checkRange_of_inRange (.inr h)

theorem State.enterHalt_haltsAs (s : State) (c : Cause) {a : Nat} (ha : a < 131072) : s.HaltsAs (s.enterHalt c a) c a := by
  refine ⟨rfl, rfl, toNat_faddr ha, rfl, rfl, ?_⟩
  intro f hf
  cases f <;> simp_all [State.sameField, State.readByte]

/-- Where the last byte lies outside memory the access is a DATA_OOB fault, and its effect `k` is not taken. -/
theorem checkRange_haltsAs {s k : State} {n : Nat} (h : Config.memSize ≤ s.effAddr n) :
    ∃ t, checkRange (s.effAddr 0) (n + 1) s k = .next t ∧ s.HaltsAs t .dataOob (max s.i.toNat Config.memSize) := by
  have hi := s.i.isLt
  have ha : max s.i.toNat Config.memSize < 131072 := Nat.max_lt.mpr ⟨by omega, by decide⟩
  exact ⟨_, checkRange_of_outOfRange n.succ_pos h, s.enterHalt_haltsAs _ ha⟩

/-! ### A block store at `I` -/

/-- The effect of `Fx33` and `Fx55`: the bytes from `I` upward, then the next word. -/
def State.storeBytes (s : State) (bs : List Byte) : State :=
  { s with mem := Memory.writeBytes s.mem (s.effAddr 0) bs }.advance

theorem exec_ldB (x : Reg) (s : State) :
    exec (.ldB x) s = checkRange (s.effAddr 0) (2 + 1) s (s.storeBytes (bcdDigits (s.getV x))) := rfl

theorem exec_stRegs (x : Reg) (s : State) :
    exec (.stRegs x) s = checkRange (s.effAddr 0) (x.toNat + 1) s (s.storeBytes (s.regsThrough x)) := rfl

section
variable {s : State} {bs : List Byte} (hw : Memory.wf s.mem = true) (hr : s.effAddr bs.length ≤ Config.memSize)
include hw hr

theorem State.readByte_storeBytes (a : Nat) : (s.storeBytes bs).readByte a =
    if h : s.effAddr 0 ≤ a ∧ a < s.effAddr 0 + bs.length then bs[a - s.effAddr 0]'(by omega) else s.readByte a :=
  Memory.read_writeBytes hw (.inr hr) a

/-- A byte of the block reads the byte stored there. -/
theorem State.readByte_storeBytes_effAddr (k : Nat) (hk : k < bs.length) :
    (s.storeBytes bs).readByte (s.effAddr k) = bs[k] := by
  rw [State.readByte_storeBytes hw hr, dif_pos (by simp only [State.effAddr]; omega)]
  simp [State.effAddr]

/-- A byte that is none of the block's reads as before. -/
theorem State.readByte_storeBytes_of_ne {a : Nat} (ha : ∀ k < bs.length, a ≠ s.effAddr k) :
    (s.storeBytes bs).readByte a = s.readByte a := by
  rw [State.readByte_storeBytes hw hr, dif_neg]
  rintro ⟨hlo, hhi⟩
  simp only [State.effAddr] at ha hlo hhi
  exact ha (a - s.i.toNat) (by omega) (by omega)

/-- What a block store keeps: memory stays canonical, `pc` goes to the next word, no other field changes, `I` included. -/
theorem State.storeBytes_frame : Memory.wf (s.storeBytes bs).mem = true
    ∧ (s.storeBytes bs).pc.toNat = (s.pc.toNat + 2) % 65536 ∧ s.OnlyChanges (s.storeBytes bs) [.mem, .pc] := by
  refine ⟨Memory.wf_writeBytes hw (.inr hr), s.nextPc_toNat, ?_⟩
  intro f hf
  cases f <;> simp_all [State.sameField, State.storeBytes]

end

/-- The digits are below 256, so each byte holds its digit (R153). -/
theorem getElem_bcdDigits_toNat (b : Byte) : (bcdDigits b)[0].toNat = b.toNat / 100
    ∧ (bcdDigits b)[1].toNat = b.toNat / 10 % 10 ∧ (bcdDigits b)[2].toNat = b.toNat % 10 := by
  have hb := b.isLt
  exact ⟨Nat.mod_eq_of_lt (by omega), Nat.mod_eq_of_lt (by omega), Nat.mod_eq_of_lt (by omega)⟩

/-! ### A block load from `I` -/

/-- The effect of `Fx65`: the bytes from `I` upward to `V[0]` and the registers after it, then the next word. -/
def State.loadRegs (s : State) (count : Nat) : State :=
  { s with v := putRegs s.v 0 (Memory.readBytes s.mem (s.effAddr 0) count) }.advance

theorem exec_ldRegs (x : Reg) (s : State) :
    exec (.ldRegs x) s = checkRange (s.effAddr 0) (x.toNat + 1) s (s.loadRegs (x.toNat + 1)) := rfl

theorem State.getV_loadRegs (s : State) (count : Nat) (j : Reg) :
    (s.loadRegs count).getV j = if j.toNat < count then s.readByte (s.effAddr j.toNat) else s.getV j := by
  refine (getElem_putRegs s.v 0 _ j.toNat j.isLt).trans ?_
  simp [Memory.getElem_readBytes, State.readByte, State.effAddr, State.getV]

theorem State.loadRegs_onlyChanges (s : State) (count : Nat) : s.OnlyChanges (s.loadRegs count) [.v, .pc] := by
  intro f hf
  cases f <;> simp_all [State.sameField, State.readByte, State.loadRegs]

end Machine

end Sys2Proof

open Sys2Proof Sys2Proof.Machine

/-- Settles O44: a store of the three digits, each read back at its own offset from `I`. -/
theorem bcdStoresThreeDigits : Obligations.BcdStoresThreeDigits := by
  unfold Obligations.BcdStoresThreeDigits
  intro x s
  refine ⟨decode_encode_ldB x, fun hw hlast => ?_, checkRange_haltsAs⟩
  obtain ⟨hundreds, tens, ones⟩ := getElem_bcdDigits_toNat (s.getV x)
  have hr : s.effAddr (bcdDigits (s.getV x)).length ≤ Config.memSize := hlast
  have digit := State.readByte_storeBytes_effAddr hw hr
  refine ⟨_, (exec_ldB x s).trans (checkRange_of_last_lt hlast), (congrArg BitVec.toNat (digit 0 (by simp))).trans hundreds,
    (congrArg BitVec.toNat (digit 1 (by simp))).trans tens, (congrArg BitVec.toNat (digit 2 (by simp))).trans ones,
    fun a ha0 ha1 ha2 => State.readByte_storeBytes_of_ne hw hr fun k hk => ?_, State.storeBytes_frame hw hr⟩
  rw [length_bcdDigits] at hk
  interval_cases k <;> assumption

/-- Settles O45: a store of the list `V[0]` to `V[x]`, whose places are the registers up to `x`. -/
theorem storeRegistersThroughX : Obligations.StoreRegistersThroughX := by
  unfold Obligations.StoreRegistersThroughX
  intro x s
  refine ⟨decode_encode_stRegs x, fun hw hlast => ?_, checkRange_haltsAs⟩
  have hlen := s.length_regsThrough x
  have hr : s.effAddr (s.regsThrough x).length ≤ Config.memSize := by rw [hlen]; exact hlast
  refine ⟨_, (exec_stRegs x s).trans (checkRange_of_last_lt hlast), fun k hk => ?_, fun a ha => ?_, State.storeBytes_frame hw hr⟩
  · rw [State.readByte_storeBytes_effAddr hw hr _ (by omega), State.getElem_regsThrough]
  · refine State.readByte_storeBytes_of_ne hw hr fun k hk => ?_
    have hk4 : (BitVec.ofNat 4 k).toNat = k := Nat.mod_eq_of_lt (by have := x.isLt; omega)
    simpa only [hk4] using ha (BitVec.ofNat 4 k) (by omega)

/-- Settles O46: register `j` takes the byte at `I + j` where `j` is below the count `x + 1`. -/
theorem loadRegistersThroughX : Obligations.LoadRegistersThroughX := by
  unfold Obligations.LoadRegistersThroughX
  intro x s
  refine ⟨decode_encode_ldRegs x, fun hr => ?_, checkRange_haltsAs⟩
  refine ⟨_, (exec_ldRegs x s).trans (checkRange_of_last_lt hr), fun j => ?_, s.nextPc_toNat, s.loadRegs_onlyChanges _⟩
  simpa only [Nat.lt_succ_iff] using s.getV_loadRegs (x.toNat + 1) j

/-- Settles O42: both write `I` alone, with the address itself and with the sum modulo 65536. -/
theorem addressRegisterLoadsAndAdds : Obligations.AddressRegisterLoadsAndAdds := by
  unfold Obligations.AddressRegisterLoadsAndAdds
  intro x nnn s
  exact ⟨⟨decode_encode_ldI nnn, exec_writeI rfl (addrOfNnn_toNat nnn)⟩,
    ⟨decode_encode_addI x, exec_writeI rfl (add_getV16_toNat s x)⟩⟩
end

section
/-! PROOFS. The clear-screen instruction (43_display.md R160): its word decodes; it blanks the framebuffer, makes its request and
goes to the next word. -/

namespace Sys2Proof.Machine

/-- The frame of `00E0`: the framebuffer, the request port and `pc` are all it writes, so no register and no flag. -/
theorem State.clearScreen_onlyChanges (s : State) :
    s.OnlyChanges { s with fb := Framebuffer.blank, req := .clearScreen }.advance [.fb, .req, .pc] := by
  intro f hf
  cases f <;> simp_all [State.sameField, State.readByte]

end Sys2Proof.Machine

open Sys2Proof Sys2Proof.Machine

/-- Settles O48: the framebuffer after is the blank one, whose every pixel reads 0. -/
theorem clearScreenClearsEveryPixel : Obligations.ClearScreenClearsEveryPixel := by
  unfold Obligations.ClearScreenClearsEveryPixel
  exact ⟨by decide, fun s => ⟨_, rfl, Framebuffer.pixel_blank, rfl, s.nextPc_toNat, s.clearScreen_onlyChanges⟩⟩
end

section
/-! PROOFS. The timer loads and stores (44_timer_key.md R170, R172, R173): their words decode, each moves one byte between a
register and a timer, and `Fx15` is the only way a step leaves DT greater than it was. -/

namespace Sys2Proof

/-! ### The words of the three instructions decode -/

theorem decode_encode_ldVxDt (x : Reg) : decode (encode (.ldVxDt x)) = .instr (.ldVxDt x) := by
  simp [encode, decode_groupXKk_F, decodeGroupF]

theorem decode_encode_ldDtVx (x : Reg) : decode (encode (.ldDtVx x)) = .instr (.ldDtVx x) := by
  simp [encode, decode_groupXKk_F, decodeGroupF]

theorem decode_encode_ldStVx (x : Reg) : decode (encode (.ldStVx x)) = .instr (.ldStVx x) := by
  simp [encode, decode_groupXKk_F, decodeGroupF]

namespace Machine

/-! ### A write of a timer -/

theorem State.writeDt_onlyChanges (s : State) (b : Byte) : s.OnlyChanges { s with dt := b }.advance [.dt, .pc] := by
  intro f hf
  cases f <;> simp_all [State.sameField, State.readByte]

theorem State.writeSt_onlyChanges (s : State) (b : Byte) : s.OnlyChanges { s with st := b }.advance [.st, .pc] := by
  intro f hf
  cases f <;> simp_all [State.sameField, State.readByte]

/-- The buzzer sounds while ST is not 0 (R196). -/
theorem State.buzzer_eq (s : State) : s.buzzer = decide (s.st.toNat ≠ 0) := by
  simp [State.buzzer, ← BitVec.toNat_inj, Bool.beq_eq_decide_eq]

/-! ### Who writes DT -/

/-- A range-checked access whose effect keeps DT keeps it in its fault too. -/
theorem checkRange_keeps_dt {s k t : State} {count : Nat}
    (h : checkRange (s.effAddr 0) count s k = .next t) (hk : k.dt = s.dt) : t.dt = s.dt := by
  rcases checkRange_next h with rfl | ⟨-, -, rfl⟩
  · exact hk
  · rfl

/-- Of the instructions only `Fx15` writes DT, and what it writes is `V[x]` (R172). -/
theorem exec_dt_cases {i : Instr} {s t : State} (h : exec i s = .next t) :
    t.dt = s.dt ∨ ∃ x, i = .ldDtVx x ∧ t.dt = s.getV x := by
  cases i
  case ldDtVx x => cases h; exact .inr ⟨x, rfl, rfl⟩
  all_goals left
  case ret =>
    simp only [exec, execRet, raiseFault] at h
    split at h
    · cases h; rfl
    · split at h <;> cases h; rfl
  case call =>
    simp only [exec, execCall, raiseFault] at h
    split at h
    · cases h; rfl
    · split at h <;> cases h; rfl
  case ldVxK =>
    cases h
    cases s.key <;> rfl
  case drw => exact checkRange_keeps_dt h rfl
  case ldB => exact checkRange_keeps_dt h rfl
  case stRegs => exact checkRange_keeps_dt h rfl
  case ldRegs => exact checkRange_keeps_dt h rfl
  all_goals (cases h; rfl)

@[simp] theorem State.continueKeyWait_dt (s : State) : s.continueKeyWait.dt = s.dt := by
  unfold State.continueKeyWait
  split <;> rfl

/-- What a step can do to DT: a TICK counts it down, a RESET clears it, a STEP keeps it unless it runs `Fx15`. -/
theorem step_dt_cases {s t : State} (h : step s = .next t) :
    t.dt.toNat ≤ s.dt.toNat ∨ (s.mode = .running ∧ s.fetchable = true
      ∧ ∃ x, decode s.fetchWord = .instr (.ldDtVx x) ∧ t.dt = s.getV x) := by
  have of_kept : t.dt = s.dt → t.dt.toNat ≤ s.dt.toNat := fun hdt => (congrArg BitVec.toNat hdt).le
  cases he : s.nextEvent with
  | tick =>
    cases (step_of_tick he).symm.trans h
    exact .inl (by simp [countDown_toNat])
  | reset =>
    cases (step_of_reset he).symm.trans h
    exact .inl (Nat.zero_le _)
  | step k r =>
    cases hm : s.mode with
    | halted =>
      cases (step_of_halted he hm).symm.trans h
      exact .inl (of_kept (by simp))
    | awaitKey =>
      cases (step_of_awaitKey he hm).symm.trans h
      exact .inl (of_kept (by simp))
    | running =>
      rcases step_of_running he hm with ⟨-, hs⟩ | ⟨hf, i, hd, hs⟩ | ⟨-, -, hs⟩
      · cases hs.symm.trans h
        exact .inl (of_kept (by simp))
      · rcases exec_dt_cases (hs.symm.trans h) with hdt | ⟨x, rfl, hdt⟩
        · exact .inl (of_kept (by simpa using hdt))
        · exact .inr ⟨rfl, hf, x, hd, by simpa using hdt⟩
      · cases hs.symm.trans h
        exact .inl (of_kept (by simp))

end Machine

end Sys2Proof

open Sys2Proof Sys2Proof.Machine

/-- Settles O52: a step that does not run `Fx15` leaves DT no greater; `Fx07` is a plain register write, and the other two write
one timer each, with the buzzer a function of ST. -/
theorem timerMoves : Obligations.TimerMoves := by
  unfold Obligations.TimerMoves
  refine ⟨fun s t h hlt => (step_dt_cases h).resolve_left (Nat.not_le.mpr hlt), fun x s => ⟨?_, ?_, ?_⟩⟩
  · exact ⟨decode_encode_ldVxDt x, _, rfl, fun j => s.getV_writePlain x j s.dt, s.writePlain_pc_toNat x s.dt,
      s.writePlain_onlyChanges x s.dt⟩
  · exact ⟨decode_encode_ldDtVx x, _, rfl, rfl, s.nextPc_toNat, s.writeDt_onlyChanges _⟩
  · exact ⟨decode_encode_ldStVx x, _, rfl, rfl, State.buzzer_eq _, s.nextPc_toNat, s.writeSt_onlyChanges _⟩
end

section
/-! PROOFS. Faults, timers and the buzzer (60_exceptions.md R182, R183, R190, R194, R196): every way a step can go, said once with
a name for each; from it which steps halt the engine and what they write, and which steps write ST. -/

namespace Sys2Proof.Machine

/-! ### Every way a step can go (R40, R41) -/

/-- From `s` a step leads to the state: one constructor for each event, and for a STEP one for each `MODE` and, in RUNNING mode,
for what the fetch gives. -/
inductive State.StepsTo (s : State) : State → Prop
  | tick (he : s.nextEvent = .tick) : s.StepsTo s.takeEvent.tick
  | reset (he : s.nextEvent = .reset) : s.StepsTo s.takeEvent.resetEvent
  | haltedStep {k : Option Nibble} {r : Byte} (he : s.nextEvent = .step k r) (hm : s.mode = .halted) :
    s.StepsTo (s.takeEvent.beginStep k r)
  | keyWait {k : Option Nibble} {r : Byte} (he : s.nextEvent = .step k r) (hm : s.mode = .awaitKey) :
    s.StepsTo (s.takeEvent.beginStep k r).continueKeyWait
  | fetchFault {k : Option Nibble} {r : Byte} (he : s.nextEvent = .step k r) (hm : s.mode = .running)
      (hf : s.fetchable = false) :
    s.StepsTo ((s.takeEvent.beginStep k r).enterHalt .fetchOob s.pc.toNat)
  | executed {k : Option Nibble} {r : Byte} {i : Instr} {t : State} (he : s.nextEvent = .step k r) (hm : s.mode = .running)
      (hf : s.fetchable = true) (hd : decode s.fetchWord = .instr i) (hx : exec i (s.takeEvent.beginStep k r) = .next t) :
    s.StepsTo t
  | undefinedWord {k : Option Nibble} {r : Byte} (he : s.nextEvent = .step k r) (hm : s.mode = .running)
      (hf : s.fetchable = true) :
    s.StepsTo (execUndef s.fetchWord (s.takeEvent.beginStep k r))

theorem stepsTo_of_step {s t : State} (h : step s = .next t) : s.StepsTo t := by
  cases he : s.nextEvent with
  | tick => cases (step_of_tick he).symm.trans h; exact .tick he
  | reset => cases (step_of_reset he).symm.trans h; exact .reset he
  | step k r =>
    cases hm : s.mode with
    | halted => cases (step_of_halted he hm).symm.trans h; exact .haltedStep he hm
    | awaitKey => cases (step_of_awaitKey he hm).symm.trans h; exact .keyWait he hm
    | running =>
      rcases step_of_running he hm with ⟨hf, hs⟩ | ⟨hf, i, hd, hs⟩ | ⟨hf, -, hs⟩
      · cases hs.symm.trans h; exact .fetchFault he hm hf
      · exact .executed he hm hf hd (hs.symm.trans h)
      · cases hs.symm.trans h; exact .undefinedWord he hm hf

/-! ### What a STEP in AWAIT_KEY mode leaves: the fault registers and ST, and the engine not halted (R171) -/

@[simp] theorem State.continueKeyWait_fcause (s : State) : s.continueKeyWait.fcause = s.fcause := by
  unfold State.continueKeyWait
  split <;> rfl

@[simp] theorem State.continueKeyWait_faddr (s : State) : s.continueKeyWait.faddr = s.faddr := by
  unfold State.continueKeyWait
  split <;> rfl

@[simp] theorem State.continueKeyWait_st (s : State) : s.continueKeyWait.st = s.st := by
  unfold State.continueKeyWait
  split <;> rfl

theorem State.continueKeyWait_mode_ne_halted {s : State} (hm : s.mode ≠ .halted) : s.continueKeyWait.mode ≠ .halted := by
  unfold State.continueKeyWait
  split
  · nofun
  · exact hm

/-! ### The steps that halt the engine (R190) -/

/-- An instruction that halts the engine does so by raising a fault. -/
theorem exec_halts {i : Instr} {s t : State} (h : exec i s = .next t) (hs : s.mode ≠ .halted) (ht : t.mode = .halted) :
    ∃ cause addr, cause ≠ .none ∧ t = s.enterHalt cause addr := by
  rcases exec_cases h with ⟨hm, -⟩ | ⟨x, -, -, rfl⟩ | ⟨-, -, -, rfl⟩ | ⟨-, -, rfl⟩ | ⟨-, -, rfl⟩
  · exact absurd (hm.symm.trans ht) hs
  · cases ht
  · exact ⟨.stackOverflow, _, nofun, rfl⟩
  · exact ⟨.stackUnderflow, _, nofun, rfl⟩
  · exact ⟨.dataOob, _, nofun, rfl⟩

/-- A step that halts the engine is a STEP that raises a fault once its inputs are sampled. -/
theorem step_halts {s t : State} (h : step s = .next t) (hs : s.mode ≠ .halted) (ht : t.mode = .halted) :
    ∃ k r cause addr, cause ≠ .none ∧ t = (s.takeEvent.beginStep k r).enterHalt cause addr := by
  have hb : ∀ k r, (s.takeEvent.beginStep k r).mode ≠ .halted := by simpa using hs
  cases stepsTo_of_step h with
  | tick => exact absurd ht (by simpa using hs)
  | reset => cases ht
  | haltedStep _ hm => exact absurd hm hs
  | keyWait => exact absurd ht (State.continueKeyWait_mode_ne_halted (hb _ _))
  | fetchFault => exact ⟨_, _, .fetchOob, _, nofun, rfl⟩
  | executed _ _ _ _ hx => exact ⟨_, _, exec_halts hx (hb _ _) ht⟩
  | undefinedWord => exact absurd ht (by simpa using hs)

/-- A fault in a STEP writes `MODE`, `FCAUSE` and `FADDR` besides the ports. -/
theorem State.enterHalt_begin_onlyChanges (s : State) (k : Option Nibble) (r : Byte) (c : Cause) (a : Nat) :
    s.OnlyChanges ((s.takeEvent.beginStep k r).enterHalt c a) ([.mode, .fcause, .faddr] ++ ports) := by
  intro f hf
  cases f <;> simp_all [State.sameField, State.readByte, ports]

/-! ### FETCH_OOB (R182) -/

/-- No instruction raises FETCH_OOB. -/
theorem exec_fcause_ne_fetchOob {i : Instr} {s t : State} (h : exec i s = .next t) (hs : s.fcause ≠ .fetchOob) :
    t.fcause ≠ .fetchOob := by
  rcases exec_cases h with ⟨-, hc, -⟩ | ⟨x, -, -, rfl⟩ | ⟨-, -, -, rfl⟩ | ⟨-, -, rfl⟩ | ⟨-, -, rfl⟩
  · rwa [hc]
  · exact hs
  all_goals nofun

/-- A STEP in RUNNING mode where nothing can be fetched is the fault. -/
theorem step_of_not_fetchable {s : State} {k : Option Nibble} {r : Byte} (he : s.nextEvent = .step k r)
    (hm : s.mode = .running) (hf : s.fetchable = false) :
    step s = .next ((s.takeEvent.beginStep k r).enterHalt .fetchOob s.pc.toNat) := by
  rcases step_of_running he hm with ⟨-, hs⟩ | ⟨hf', -⟩ | ⟨hf', -⟩
  · exact hs
  all_goals simp [hf] at hf'

/-- Where a word can be fetched, a step does not raise FETCH_OOB. -/
theorem step_fcause_ne_fetchOob {s t : State} (hf : s.fetchable = true) (hs : s.fcause ≠ .fetchOob) (h : step s = .next t) :
    t.fcause ≠ .fetchOob := by
  cases stepsTo_of_step h with
  | fetchFault _ _ hf' => simp [hf] at hf'
  | executed _ _ _ _ hx => exact exec_fcause_ne_fetchOob hx (by simpa using hs)
  | reset => nofun
  | _ => simpa using hs

/-! ### DATA_OOB (R183) -/

/-- An instruction that is a range-checked access of `count` bytes at `I`, with an effect that does not halt, raises DATA_OOB
exactly where one of the bytes lies outside memory. -/
theorem exec_dataOob_iff {i : Instr} {s k : State} {count : Nat} (hx : exec i s = checkRange (s.effAddr 0) count s k)
    (hk : k.mode ≠ .halted) :
    (∃ t, exec i s = .next t ∧ t.mode = .halted ∧ t.fcause = .dataOob)
      ↔ 0 < count ∧ Config.memSize < s.i.toNat + count := by
  rw [hx]
  constructor
  · rintro ⟨t, h, hm, -⟩
    rcases checkRange_next h with rfl | ⟨hpos, hout, -⟩
    · exact absurd hm hk
    · exact ⟨hpos, by omega⟩
  · rintro ⟨hpos, hout⟩
    exact ⟨_, checkRange_of_outOfRange hpos (by simp only [State.effAddr]; omega), rfl, rfl⟩

/-! ### A TICK (R194) -/

theorem State.tick_onlyChanges (s : State) : s.OnlyChanges s.takeEvent.tick [.dt, .st, .events, .draws] := by
  intro f hf
  cases f <;> simp_all [State.sameField, State.readByte]

/-! ### The buzzer and who writes ST (R196) -/

theorem State.buzzer_iff (s : State) : s.buzzer = true ↔ s.st ≠ 0#8 := by simp [State.buzzer]

theorem State.buzzer_off_iff (s : State) : s.buzzer = false ↔ s.st = 0#8 := by simp [State.buzzer]

/-- A tick leaves zero at zero, and takes one there. -/
theorem countDown_eq_zero_iff (b : Byte) : countDown b = 0#8 ↔ b = 0#8 ∨ b = 1#8 := by revert b; decide

/-- A range-checked access whose effect keeps ST keeps it in its fault too. -/
theorem checkRange_keeps_st {s k t : State} {count : Nat}
    (h : checkRange (s.effAddr 0) count s k = .next t) (hk : k.st = s.st) : t.st = s.st := by
  rcases checkRange_next h with rfl | ⟨-, -, rfl⟩
  · exact hk
  · rfl

/-- All that a return can do, where it has a next state (R121, R185). -/
theorem exec_ret_next {s t : State} (h : exec .ret s = .next t) :
    t = s.enterHalt .stackUnderflow s.pc.toNat ∨ ∃ w, t = s.pop.setPc w := by
  simp only [exec, execRet, raiseFault] at h
  split at h
  · cases h; exact .inl rfl
  · split at h <;> cases h
    exact .inr ⟨_, rfl⟩

/-- All that a call can do, where it has a next state (R123, R184). -/
theorem exec_call_next {nnn : Imm12} {s t : State} (h : exec (.call nnn) s = .next t) :
    t = s.enterHalt .stackOverflow s.pc.toNat
      ∨ ∃ hsp : s.sp.toNat < Config.stackDepth, t = (s.push s.pc hsp).setPc (addrOfNnn nnn) := by
  simp only [exec, execCall, raiseFault] at h
  split at h
  · cases h; exact .inl rfl
  · split at h <;> cases h
    exact .inr ⟨‹_›, rfl⟩

/-- Of the instructions only `Fx18` writes ST, and what it writes is `V[x]` (R173). -/
theorem exec_st_cases {i : Instr} {s t : State} (h : exec i s = .next t) :
    t.st = s.st ∨ ∃ x, i = .ldStVx x ∧ t.st = s.getV x := by
  cases i
  case ldStVx x => cases h; exact .inr ⟨x, rfl, rfl⟩
  all_goals left
  case ret => rcases exec_ret_next h with rfl | ⟨w, rfl⟩ <;> rfl
  case call => rcases exec_call_next h with rfl | ⟨hsp, rfl⟩ <;> rfl
  case ldVxK =>
    cases h
    cases s.key <;> rfl
  case drw => exact checkRange_keeps_st h rfl
  case ldB => exact checkRange_keeps_st h rfl
  case stRegs => exact checkRange_keeps_st h rfl
  case ldRegs => exact checkRange_keeps_st h rfl
  all_goals (cases h; rfl)

/-- What a step can do to ST: keep it, count it down (TICK), clear it (RESET), or load it (`Fx18`). -/
theorem step_st_cases {s t : State} (h : step s = .next t) :
    t.st = s.st ∨ (s.nextEvent = .tick ∧ t.st = countDown s.st) ∨ (s.nextEvent = .reset ∧ t.st = 0#8)
      ∨ (s.mode = .running ∧ s.fetchable = true ∧ ∃ x, decode s.fetchWord = .instr (.ldStVx x) ∧ t.st = s.getV x) := by
  cases stepsTo_of_step h with
  | tick he => exact .inr (.inl ⟨he, by simp⟩)
  | reset he => exact .inr (.inr (.inl ⟨he, rfl⟩))
  | executed he hm hf hd hx =>
    rcases exec_st_cases hx with hst | ⟨x, rfl, hst⟩
    · exact .inl (by simpa using hst)
    · exact .inr (.inr (.inr ⟨hm, hf, x, hd, by simpa using hst⟩))
  | _ => exact .inl (by simp)

end Sys2Proof.Machine

open Sys2Proof Sys2Proof.Machine

/-- Settles O11: the engine is halted only by a fault with a cause, raised on the state whose inputs are sampled. -/
theorem faultsArePrecise : Obligations.FaultsArePrecise := by
  unfold Obligations.FaultsArePrecise
  refine ⟨fun cause addr s ha => ⟨_, rfl, s.enterHalt_haltsAs cause ha⟩, fun s t h hs ht => ?_⟩
  obtain ⟨k, r, cause, addr, hc, rfl⟩ := step_halts h hs ht
  exact ⟨hc, rfl, rfl, s.enterHalt_begin_onlyChanges k r cause addr⟩

/-- Settles O20: the buzzer is ST ≠ 0, so its switching is read off the four things a step can do to ST. -/
theorem buzzerFollowsTheSoundTimer : Obligations.BuzzerFollowsTheSoundTimer := by
  unfold Obligations.BuzzerFollowsTheSoundTimer
  refine ⟨State.buzzer_iff, fun s x => ⟨_, rfl, State.buzzer_iff _⟩, fun s hs => ?_, fun s t h hoff hon => ?_,
    fun s t h hon hoff => ?_⟩
  · rcases hs with ⟨he, hst⟩ | he
    · exact ⟨_, step_of_tick he, by simp [State.buzzer_off_iff, countDown_eq_zero_iff, hst]⟩
    · exact ⟨_, step_of_reset he, rfl⟩
  · rw [State.buzzer_off_iff] at hoff
    rw [State.buzzer_iff] at hon
    rcases step_st_cases h with hst | ⟨-, hst⟩ | ⟨-, hst⟩ | ⟨hm, hf, x, hd, hst⟩
    · exact absurd (hst.trans hoff) hon
    · exact absurd (hst.trans ((countDown_eq_zero_iff _).mpr (.inl hoff))) hon
    · exact absurd hst hon
    · exact ⟨hm, hf, x, hd, hst ▸ hon⟩
  · rw [State.buzzer_iff] at hon
    rw [State.buzzer_off_iff] at hoff
    rcases step_st_cases h with hst | ⟨he, hst⟩ | ⟨he, -⟩ | ⟨hm, hf, x, hd, hst⟩
    · exact absurd (hst.symm.trans hoff) hon
    · exact .inl ⟨he, ((countDown_eq_zero_iff _).mp (hst.symm.trans hoff)).resolve_left hon⟩
    · exact .inr (.inl he)
    · exact .inr (.inr ⟨hm, hf, x, hd, hst.symm.trans hoff⟩)

/-- Settles O47: the four are range checks of their own counts; what is left for each is the bound as a number. -/
theorem dataFaultsExactly : Obligations.DataFaultsExactly := by
  unfold Obligations.DataFaultsExactly
  intro s hm
  have hs : s.mode ≠ .halted := by simp [hm]
  refine ⟨fun x => (exec_dataOob_iff (exec_ldB x s) hs).trans ?_, fun x => (exec_dataOob_iff (exec_stRegs x s) hs).trans ?_,
    fun x => (exec_dataOob_iff (exec_ldRegs x s) hs).trans ?_, fun x y n => exec_dataOob_iff rfl hs,
    fun x nnn => ⟨⟨_, rfl, hm⟩, ⟨_, rfl, hm⟩, ⟨_, rfl, hm⟩⟩⟩
  all_goals
    have hN : Config.memSize = 0x1000 := rfl
    omega

/-- Settles O9: the fetch check is the first thing a RUNNING STEP does, the only raiser of FETCH_OOB, and no part of the other
modes. -/
theorem fetchOutOfBoundsHalts : Obligations.FetchOutOfBoundsHalts := by
  unfold Obligations.FetchOutOfBoundsHalts
  intro s key rand he
  refine ⟨fun hm hpc => ?_, fun _ hpc hc t => step_fcause_ne_fetchOob (s.fetchable_iff.mpr hpc) hc, fun hm => ?_⟩
  · exact ⟨_, step_of_not_fetchable he hm (s.not_fetchable_iff.mpr hpc), rfl, rfl, toNat_faddr (by have := s.pc.isLt; omega),
      rfl, rfl, s.enterHalt_begin_onlyChanges key rand _ _⟩
  · cases hmode : s.mode with
    | running => exact absurd hmode hm
    | awaitKey => exact ⟨_, step_of_awaitKey he hmode, by simp, by simp⟩
    | halted => exact ⟨_, step_of_halted he hmode, by simp, by simp⟩

/-- Settles O17: a TICK is `countDown` on both timers, in every mode. -/
theorem tickCountsDown : Obligations.TickCountsDown := by
  unfold Obligations.TickCountsDown
  intro s he
  exact ⟨_, step_of_tick he, by simp [countDown_toNat], by simp [countDown_toNat], s.tick_onlyChanges⟩
end

section
/-! PROOFS. The encoder and the decoder are inverse to each other, and the opcode map is their common table (30_encoding.md R90 to
R97): every instruction's word decodes to it, the patterns of the map exclude each other, and the words of no pattern are those
listed by group. -/

namespace Sys2Proof

/-! ### The words of the remaining instructions decode -/

theorem decode_encode_call (nnn : Imm12) : decode (encode (.call nnn)) = .instr (.call nnn) := by simp [decode, encode]

theorem decode_encode_drw (x y : Reg) (n : Nibble) : decode (encode (.drw x y n)) = .instr (.drw x y n) := by
  simp [decode, encode]

theorem decode_encode_orReg (x y : Reg) : decode (encode (.orReg x y)) = .instr (.orReg x y) := by
  simp [encode, decode_nibbles_8, decodeGroup8]

theorem decode_encode_andReg (x y : Reg) : decode (encode (.andReg x y)) = .instr (.andReg x y) := by
  simp [encode, decode_nibbles_8, decodeGroup8]

theorem decode_encode_xorReg (x y : Reg) : decode (encode (.xorReg x y)) = .instr (.xorReg x y) := by
  simp [encode, decode_nibbles_8, decodeGroup8]

theorem decode_encode_ldVxK (x : Reg) : decode (encode (.ldVxK x)) = .instr (.ldVxK x) := by
  simp [encode, decode_groupXKk_F, decodeGroupF]

theorem decode_encode_ldF (x : Reg) : decode (encode (.ldF x)) = .instr (.ldF x) := by
  simp [encode, decode_groupXKk_F, decodeGroupF]

/-- Decoding undoes encoding (R92, R95), by the instruction's format. -/
theorem decode_encode (i : Instr) : decode (encode i) = .instr i :=
  match i with
  | .cls => by decide
  | .ret => by decide
  | .jp nnn => decode_encode_jp nnn
  | .call nnn => decode_encode_call nnn
  | .seImm x kk => decode_encode_seImm x kk
  | .sneImm x kk => decode_encode_sneImm x kk
  | .seReg x y => decode_encode_seReg x y
  | .ldImm x kk => decode_encode_ldImm x kk
  | .addImm x kk => decode_encode_addImm x kk
  | .ldReg x y => decode_encode_ldReg x y
  | .orReg x y => decode_encode_orReg x y
  | .andReg x y => decode_encode_andReg x y
  | .xorReg x y => decode_encode_xorReg x y
  | .addReg x y => decode_encode_addReg x y
  | .subReg x y => decode_encode_subReg x y
  | .shr x y => decode_encode_shr x y
  | .subnReg x y => decode_encode_subnReg x y
  | .shl x y => decode_encode_shl x y
  | .sneReg x y => decode_encode_sneReg x y
  | .ldI nnn => decode_encode_ldI nnn
  | .jpV0 nnn => decode_encode_jpV0 nnn
  | .rnd x kk => decode_encode_rnd x kk
  | .drw x y n => decode_encode_drw x y n
  | .ldVxDt x => decode_encode_ldVxDt x
  | .ldVxK x => decode_encode_ldVxK x
  | .ldDtVx x => decode_encode_ldDtVx x
  | .ldStVx x => decode_encode_ldStVx x
  | .addI x => decode_encode_addI x
  | .ldF x => decode_encode_ldF x
  | .ldB x => decode_encode_ldB x
  | .stRegs x => decode_encode_stRegs x
  | .ldRegs x => decode_encode_ldRegs x

/-- Over bytes in memory order the two bytes of the encoding are consumed and no more (R62, R90). -/
theorem decodeBytes_encodeBytes (i : Instr) (rest : List Byte) : decodeBytes (encodeBytes i ++ rest) = (.instr i, rest) := by
  simp only [encodeBytes, List.cons_append, List.nil_append, decodeBytes, wordOfBytes_bytes, decode_encode]

/-- The types of the operands are their ranges, so every instruction is well-formed (R93). -/
theorem Instr.wf_eq_true (i : Instr) : i.wf = true := by
  have h4 (x : BitVec 4) : x.toNat < 16 := x.isLt
  have h8 (kk : Byte) : kk.toNat < 256 := kk.isLt
  have h12 (nnn : Imm12) : nnn.toNat < 4096 := nnn.isLt
  cases i <;> simp [Instr.wf, h4, h8, h12]

/-! ### The patterns of the map exclude each other -/

/-- Two patterns that select one word agree on the bits both of them fix. -/
theorem patterns_agree {w : Word} {p q : Word × Word} (hp : w &&& p.1 = p.2) (hq : w &&& q.1 = q.2) :
    p.2 &&& q.1 = q.2 &&& p.1 := by
  rw [← hp, ← hq, BitVec.and_assoc, BitVec.and_assoc, BitVec.and_comm p.1]

/-- Two different rows of the map differ on a bit both of them fix (R94, derived from R95). -/
theorem opcodeMap_pairwise : opcodeMap.Pairwise fun p q => p.2 &&& q.1 ≠ q.2 &&& p.1 := by decide

theorem opcodeMap_nodup : opcodeMap.Nodup := by decide

/-- A word is selected by one row of the map at most (R94). -/
theorem row_unique {w : Word} {p q : Word × Word} (hp : p ∈ opcodeMap) (hq : q ∈ opcodeMap) (hwp : w &&& p.1 = p.2)
    (hwq : w &&& q.1 = q.2) : p = q := by
  have _ : Std.Symm fun p q : Word × Word => p.2 &&& q.1 ≠ q.2 &&& p.1 := ⟨fun _ _ => Ne.symm⟩
  by_contra hne
  exact opcodeMap_pairwise.forall hp hq hne (patterns_agree hwp hwq)

/-! ### The words of no pattern (R97) -/

/-- The words the list of undefined words gives, by group (R97). -/
def UndefinedByGroup (w : Word) : Prop :=
  (fieldG w = 0x0#4 ∧ w ≠ 0x00E0#16 ∧ w ≠ 0x00EE#16)
    ∨ (fieldG w = 0x5#4 ∧ fieldN w ≠ 0x0#4)
    ∨ (fieldG w = 0x8#4 ∧ fieldN w ∈ [0x8#4, 0x9#4, 0xA#4, 0xB#4, 0xC#4, 0xD#4, 0xF#4])
    ∨ (fieldG w = 0x9#4 ∧ fieldN w ≠ 0x0#4)
    ∨ fieldG w = 0xE#4
    ∨ (fieldG w = 0xF#4 ∧ fieldKk w ∉ [0x07#8, 0x0A#8, 0x15#8, 0x18#8, 0x1E#8, 0x29#8, 0x33#8, 0x55#8, 0x65#8])

theorem decodeGroup8_rejected_iff (w : Word) : decodeGroup8 w = .rejected (.undefinedOpcode w)
    ↔ fieldN w ∈ [0x8#4, 0x9#4, 0xA#4, 0xB#4, 0xC#4, 0xD#4, 0xF#4] := by
  unfold decodeGroup8
  split
  all_goals simp_all [← BitVec.toNat_inj]
  omega

theorem decodeGroupF_rejected_iff (w : Word) : decodeGroupF w = .rejected (.undefinedOpcode w)
    ↔ fieldKk w ∉ [0x07#8, 0x0A#8, 0x15#8, 0x18#8, 0x1E#8, 0x29#8, 0x33#8, 0x55#8, 0x65#8] := by
  unfold decodeGroupF
  split
  all_goals simp_all [← BitVec.toNat_inj]

/-- The decoder rejects exactly the words of the list: in each group the list has what the group's own selection leaves out. -/
theorem decode_rejected_iff (w : Word) : decode w = .rejected (.undefinedOpcode w) ↔ UndefinedByGroup w := by
  unfold decode UndefinedByGroup
  split
  case h_1 hg =>
    split
    · subst w; decide
    · split
      · subst w; decide
      · simp_all [← BitVec.toNat_inj]
  case h_6 hg => split <;> simp_all [← BitVec.toNat_inj]
  case h_9 hg => rw [decodeGroup8_rejected_iff]; simp [hg, ← BitVec.toNat_inj]
  case h_10 hg => split <;> simp_all [← BitVec.toNat_inj]
  case h_15 hg => rw [decodeGroupF_rejected_iff]; simp [hg, ← BitVec.toNat_inj]
  case h_16 =>
    have hlt := (fieldG w).isLt
    simp_all [← BitVec.toNat_inj]
    omega
  all_goals simp_all [← BitVec.toNat_inj]

/-- A word is read or rejected by name. -/
theorem decode_total (w : Word) : (∃ i, decode w = .instr i) ∨ decode w = .rejected (.undefinedOpcode w) := by
  cases h : decode w with
  | instr i => exact .inl ⟨i, rfl⟩
  | rejected r => exact .inr (by rw [Machine.decode_rejected h])

/-! ### What a pattern fixes of a word it selects -/

/-- The rows of the map by what they fix: the whole word, the group, the group and the low nibble, the group and the low byte
(R92); and in each class the values that R97 leaves out. -/
theorem opcodeMap_classes : ∀ p ∈ opcodeMap,
    (p.1 = 0xFFFF#16 ∧ p.2 ∈ [0x00E0#16, 0x00EE#16])
      ∨ (p.1 = 0xF000#16 ∧ fieldG p.2 ∉ [0x0#4, 0x5#4, 0x8#4, 0x9#4, 0xE#4, 0xF#4])
      ∨ (p.1 = 0xF00F#16 ∧ (fieldG p.2 ∈ [0x5#4, 0x9#4] ∧ fieldN p.2 = 0x0#4
        ∨ fieldG p.2 = 0x8#4 ∧ fieldN p.2 ∉ [0x8#4, 0x9#4, 0xA#4, 0xB#4, 0xC#4, 0xD#4, 0xF#4]))
      ∨ (p.1 = 0xF0FF#16 ∧ fieldG p.2 = 0xF#4
        ∧ fieldKk p.2 ∈ [0x07#8, 0x0A#8, 0x15#8, 0x18#8, 0x1E#8, 0x29#8, 0x33#8, 0x55#8, 0x65#8]) :=
  List.forall_iff_forall_mem.mp (by decide)

theorem fieldG_of_maskF000 {w m : Word} (h : w &&& 0xF000#16 = m) : fieldG w = fieldG m := by
  rw [← h, and_maskF000, fieldG_groupNnn]

theorem fields_of_maskF00F {w m : Word} (h : w &&& 0xF00F#16 = m) : fieldG w = fieldG m ∧ fieldN w = fieldN m := by
  rw [← h, and_maskF00F, fieldG_nibbles, fieldN_nibbles]; exact ⟨rfl, rfl⟩

theorem fields_of_maskF0FF {w m : Word} (h : w &&& 0xF0FF#16 = m) : fieldG w = fieldG m ∧ fieldKk w = fieldKk m := by
  rw [← h, and_maskF0FF, fieldG_groupXKk, fieldKk_groupXKk]; exact ⟨rfl, rfl⟩

/-- A word that a row selects is none of the listed ones. -/
theorem not_undefinedByGroup_of_row {w : Word} {p : Word × Word} (hp : p ∈ opcodeMap) (hw : w &&& p.1 = p.2) :
    ¬ UndefinedByGroup w := by
  rcases opcodeMap_classes p hp with ⟨hm, hv⟩ | ⟨hm, hv⟩ | ⟨hm, hv⟩ | ⟨hm, hg, hv⟩ <;> rw [hm] at hw
  · rw [← decode_rejected_iff, ← and_maskFFFF w, hw]
    rcases List.mem_pair.mp hv with h | h <;> rw [h] <;> decide
  · have hg := fieldG_of_maskF000 hw
    simp_all [UndefinedByGroup]
  · obtain ⟨hg, hn⟩ := fields_of_maskF00F hw
    rcases hv with ⟨h, h0⟩ | ⟨h, h0⟩
    · rcases List.mem_pair.mp h with h | h <;> simp_all [UndefinedByGroup]
    · simp_all [UndefinedByGroup]
  · obtain ⟨hg', hk⟩ := fields_of_maskF0FF hw
    simp_all [UndefinedByGroup]

/-- A word that a row selects is read, and the row is that of the instruction it is read as (R94). -/
theorem decode_of_row {w : Word} {p : Word × Word} (hp : p ∈ opcodeMap) (hw : w &&& p.1 = p.2) :
    ∃ i, decode w = .instr i ∧ (i.mask, i.matchValue) = p := by
  rcases decode_total w with ⟨i, hd⟩ | hr
  · obtain ⟨hmatch, hrow⟩ := decode_matches_row hd
    exact ⟨i, hd, row_unique hrow hp hmatch hw⟩
  · exact absurd ((decode_rejected_iff w).mp hr) (not_undefinedByGroup_of_row hp hw)

/-- A word of no row is rejected by name, and only such a word (R96). -/
theorem no_row_iff_rejected (w : Word) :
    (∀ p ∈ opcodeMap, w &&& p.1 ≠ p.2) ↔ decode w = .rejected (.undefinedOpcode w) := by
  constructor
  · intro hno
    refine (decode_total w).resolve_left ?_
    rintro ⟨i, hd⟩
    obtain ⟨hmatch, hrow⟩ := decode_matches_row hd
    exact hno _ hrow hmatch
  · intro hr p hp hw
    exact not_undefinedByGroup_of_row hp hw ((decode_rejected_iff w).mp hr)

end Sys2Proof

open Sys2Proof

/-- Settles O2: the word by the format of each instruction, the bytes by putting the two together again. -/
theorem encodeThenDecodeGivesTheInstruction : Obligations.EncodeThenDecodeGivesTheInstruction := by
  unfold Obligations.EncodeThenDecodeGivesTheInstruction
  exact fun i => ⟨i.wf_eq_true, decode_encode i, decodeBytes_encodeBytes i⟩

/-- Settles O3: in each group of the decoder the fields are put together again to the word. -/
theorem decodeThenEncodeGivesTheWord : Obligations.DecodeThenEncodeGivesTheWord := by
  unfold Obligations.DecodeThenEncodeGivesTheWord
  exact fun _ _ => encode_of_decode

/-- Settles O4: a selected word cannot be one of the listed undefined ones, so it is read, and its row is the only one. -/
theorem maskAndMatchSelectTheInstruction : Obligations.MaskAndMatchSelectTheInstruction := by
  unfold Obligations.MaskAndMatchSelectTheInstruction
  exact ⟨fun _ _ => decode_matches_row, fun _ _ => decode_of_row, ⟨rfl, opcodeMap_nodup⟩, fun _ _ _ => row_unique,
    no_row_iff_rejected⟩

/-- Settles O5: group by group, the list is what the decoder's selection in that group leaves out. -/
theorem undefinedWordsByGroup : Obligations.UndefinedWordsByGroup := by
  unfold Obligations.UndefinedWordsByGroup
  exact fun w => ⟨decode_total w, decode_rejected_iff w⟩

/-- Settles O1: nineteen closed words. -/
theorem decodesSampleWords : Obligations.DecodesSampleWords := by
  unfold Obligations.DecodesSampleWords
  decide
end

section
/-! PROOFS. The return-address stack (40_flow.md R121, R123, R129): a call and a return at each depth, said once each, and from
the two the round trip; the words of both decode. -/

namespace Sys2Proof.Machine

/-! ### A call and a return at each depth -/

theorem exec_call_of_room {s : State} (nnn : Imm12) (h : s.sp.toNat < Config.stackDepth) :
    exec (.call nnn) s = .next ((s.push s.pc h).setPc (addrOfNnn nnn)) := by
  have hne : s.sp ≠ 16#8 := fun he => by simp [he] at h
  simp [exec, execCall, hne, dif_pos h]

theorem exec_call_of_full {s : State} (nnn : Imm12) (h : s.sp = 16#8) :
    exec (.call nnn) s = .next (s.enterHalt .stackOverflow s.pc.toNat) := by
  simp [exec, execCall, h, raiseFault]

theorem exec_ret_of_empty {s : State} (h : s.sp = 0#8) : exec .ret s = .next (s.enterHalt .stackUnderflow s.pc.toNat) := by
  simp [exec, execRet, h, raiseFault]

/-- After a pop the depth is one less. -/
theorem State.pop_sp_toNat {s : State} {k : Nat} (hsp : s.sp.toNat = k + 1) : s.pop.sp.toNat = k := by
  have := s.sp.isLt
  rw [State.pop_sp, BitVec.toNat_sub, hsp]
  simp
  omega

theorem exec_ret_of_depth {s : State} {k : Nat} (hk : k < Config.stackDepth) (hsp : s.sp.toNat = k + 1) :
    exec .ret s = .next (s.pop.setPc (s.stack[k]'hk + 2#16)) := by
  have hne : s.sp ≠ 0#8 := fun he => by simp [he] at hsp
  have hpop := State.pop_sp_toNat hsp
  simp only [exec, execRet, if_neg hne, hpop, dif_pos hk]

theorem exec_call_of_absent {s : State} (nnn : Imm12) (h : Config.stackDepth < s.sp.toNat) :
    exec (.call nnn) s = .fault .stackSlotAbsent := by
  have hne : s.sp ≠ 16#8 := fun he => by simp [he] at h
  simp only [exec, execCall, if_neg hne, dif_neg (Nat.lt_asymm h)]

theorem exec_ret_of_absent {s : State} (h : Config.stackDepth < s.sp.toNat) : exec .ret s = .fault .stackSlotAbsent := by
  have hne : s.sp ≠ 0#8 := fun he => by simp [he] at h
  have hpop : ¬ s.pop.sp.toNat < Config.stackDepth := by
    rw [State.pop_sp_toNat (Nat.succ_pred_eq_of_pos (Nat.zero_lt_of_lt h)).symm]
    exact Nat.not_lt.mpr (Nat.le_pred_of_lt h)
  simp only [exec, execRet, if_neg hne, dif_neg hpop]

/-- The depths a call tells apart. -/
theorem State.call_depth_cases (s : State) :
    s.sp = 16#8 ∨ s.sp.toNat < Config.stackDepth ∨ Config.stackDepth < s.sp.toNat := by
  rw [← BitVec.toNat_inj]
  exact (Nat.lt_trichotomy _ _).elim (fun h => .inr (.inl h)) fun h => h.imp_right .inr

/-- The depths a return tells apart. -/
theorem State.ret_depth_cases (s : State) :
    s.sp = 0#8 ∨ (∃ k < Config.stackDepth, s.sp.toNat = k + 1) ∨ Config.stackDepth < s.sp.toNat := by
  rw [← BitVec.toNat_inj]
  cases hk : s.sp.toNat with
  | zero => exact .inl rfl
  | succ k => exact .inr ((Nat.lt_or_ge k Config.stackDepth).imp (fun h => ⟨k, h, rfl⟩) Nat.lt_succ_of_le)

/-- After a push into a slot that exists the depth is one more. -/
theorem State.push_sp_toNat {s : State} (w : Word) (h : s.sp.toNat < Config.stackDepth) :
    (s.push w h).sp.toNat = s.sp.toNat + 1 := by
  rw [State.push_sp, BitVec.toNat_add]
  simp only [Config.stackDepth] at h
  simp
  omega

/-- Every slot after a push: the pushed word in its own, the others as before. -/
theorem State.getElem_push_stack {s : State} (w : Word) (h : s.sp.toNat < Config.stackDepth) (k : Nat)
    (hk : k < Config.stackDepth) :
    (s.push w h).stack[k]'hk = if k = s.sp.toNat then w else s.stack[k]'hk := by
  simp only [State.push_stack, Vector.getElem_set, eq_comm]

/-! ### Their frames -/

theorem State.push_setPc_onlyChanges (s : State) (w t : Word) (h : s.sp.toNat < Config.stackDepth) :
    s.OnlyChanges ((s.push w h).setPc t) [.sp, .stack, .pc] := by
  intro f hf
  cases f <;> simp_all [State.sameField, State.readByte]

theorem State.pop_setPc_onlyChanges (s : State) (t : Word) : s.OnlyChanges (s.pop.setPc t) [.sp, .pc] := by
  intro f hf
  cases f <;> simp_all [State.sameField, State.readByte]

/-- A 16-bit address is a fault address as it is. -/
theorem State.enterHalt_at_pc_haltsAs (s : State) (c : Cause) : s.HaltsAs (s.enterHalt c s.pc.toNat) c s.pc.toNat :=
  s.enterHalt_haltsAs c (by omega)

end Sys2Proof.Machine

open Sys2Proof Sys2Proof.Machine

/-- Settles O29: a return at each depth is one operation, a pop and a write of `pc`, or the fault. -/
theorem retPops : Obligations.RetPops := by
  unfold Obligations.RetPops
  refine ⟨decode_encode .ret, fun s k hk hsp => ?_, fun s hsp => ?_⟩
  · exact ⟨_, exec_ret_of_depth hk hsp, State.pop_sp_toNat hsp, BitVec.toNat_add _ _, s.pop_setPc_onlyChanges _⟩
  · exact ⟨_, exec_ret_of_empty hsp, s.enterHalt_at_pc_haltsAs _⟩

/-- Settles O31: a call is one operation, a push of its own address and a write of `pc`, or the fault. -/
theorem callPushesItsOwnAddress : Obligations.CallPushesItsOwnAddress := by
  unfold Obligations.CallPushesItsOwnAddress
  refine fun nnn s => ⟨decode_encode_call nnn, fun hsp => ?_, fun hsp => ?_⟩
  · exact ⟨_, exec_call_of_room nnn hsp, State.push_sp_toNat s.pc hsp, addrOfNnn_toNat nnn, State.getElem_push_stack _ hsp,
      s.push_setPc_onlyChanges _ _ hsp⟩
  · exact ⟨_, exec_call_of_full nnn hsp, s.enterHalt_at_pc_haltsAs _⟩

/-- Settles O32: above 16 neither the slot at `SP` nor the one below it exists. -/
theorem depthBeyondSixteenStops : Obligations.DepthBeyondSixteenStops := by
  unfold Obligations.DepthBeyondSixteenStops
  exact fun s nnn hsp => ⟨exec_call_of_absent nnn hsp, exec_ret_of_absent hsp⟩
end

section
/-! PROOFS. Instructions that need no state but their operands: the bitwise logic (41_alu.md R133 to R135), the glyph address
(42_index_memory.md R152) and the draw that leaves memory (43_display.md R162). -/

namespace Sys2Proof.Machine

/-- A plain write of `b` to `V[x]`, with what is known of the bits of `b`. -/
theorem exec_writePlain_bits {i : Instr} {s : State} {x : Reg} {b : Byte} {f : Nat → Bool}
    (h : exec i s = .next (s.writePlain x b)) (hb : ∀ k < 8, b.getLsbD k = f k) :
    ∃ t, exec i s = .next t ∧ (∀ k : Nat, k < 8 → (t.getV x).getLsbD k = f k) ∧ (∀ j, j ≠ x → t.getV j = s.getV j)
      ∧ t.pc.toNat = (s.pc.toNat + 2) % 65536 ∧ s.OnlyChanges t [.v, .pc] :=
  ⟨_, h, fun k hk => by rw [State.getV_writePlain_self, hb k hk], s.writePlain_frame x b⟩

/-- The glyph of the low four bits: glyphs are five bytes apart from address 0 on, and the last begins at 75. -/
theorem glyphAddr_toNat (b : Byte) : (glyphAddr b).toNat = 0x000 + 5 * (b.toNat % 16) := by
  have hlow : (b &&& 0x0F#8).toNat = b.toNat % 16 := by
    rw [BitVec.toNat_and]; exact Nat.and_two_pow_sub_one_eq_mod _ 4
  simp only [glyphAddr, Config.fontBase, Config.glyphStride, BitVec.toNat_ofNat, hlow]
  omega

end Sys2Proof.Machine

open Sys2Proof Sys2Proof.Machine

/-- Settles O36: three plain writes, whose bits are those of the bitwise operation. -/
theorem logicIsBitwise : Obligations.LogicIsBitwise := by
  unfold Obligations.LogicIsBitwise
  exact fun x y s => ⟨⟨decode_encode_orReg x y, exec_writePlain_bits rfl fun _ _ => BitVec.getLsbD_or⟩,
    ⟨decode_encode_andReg x y, exec_writePlain_bits rfl fun _ _ => BitVec.getLsbD_and⟩,
    ⟨decode_encode_xorReg x y, exec_writePlain_bits rfl fun _ _ => BitVec.getLsbD_xor⟩⟩

/-- Settles O43: a write of `I` alone. -/
theorem fontGlyphAddress : Obligations.FontGlyphAddress := by
  unfold Obligations.FontGlyphAddress
  exact fun x s => ⟨decode_encode_ldF x, exec_writeI rfl (glyphAddr_toNat _)⟩

/-- Settles O50: the range is checked before the effect, which is not taken. -/
theorem drawOutOfBoundsFaults : Obligations.DrawOutOfBoundsFaults := by
  unfold Obligations.DrawOutOfBoundsFaults
  intro x y n s hpos hout
  have hi := s.i.isLt
  have ha : max s.i.toNat Config.memSize < 131072 := Nat.max_lt.mpr ⟨by omega, by decide⟩
  exact ⟨_, checkRange_of_outOfRange hpos hout, s.enterHalt_haltsAs _ ha⟩
end

section
/-! PROOFS. Who writes what (10_state.md R20 to R29, 40_flow.md R129): for every instruction the fields it can change, said once,
and from it the writers of each element of the state. -/

namespace Sys2Proof.Machine

/-! ### The fields an instruction can change -/

/-- What taking a fault writes (R190). -/
def haltFields : List Field := [.mode, .fcause, .faddr, .req, .warn]

/-- The fields an instruction can change, its fault included where it can raise one. -/
def footprint : Instr → List Field
  | .cls => [.fb, .req, .pc]
  | .ret => [.sp, .pc] ++ haltFields
  | .call _ => [.sp, .stack, .pc] ++ haltFields
  | .jp _ | .jpV0 _ | .seImm _ _ | .sneImm _ _ | .seReg _ _ | .sneReg _ _ => [.pc]
  | .ldImm _ _ | .addImm _ _ | .ldReg _ _ | .orReg _ _ | .andReg _ _ | .xorReg _ _ | .addReg _ _ | .subReg _ _ | .shr _ _
  | .subnReg _ _ | .shl _ _ | .rnd _ _ | .ldVxDt _ => [.v, .pc]
  | .ldI _ | .addI _ | .ldF _ => [.i, .pc]
  | .drw _ _ _ => [.v, .fb, .req, .pc] ++ haltFields
  | .ldVxK _ => [.v, .pc, .mode, .kreg, .req]
  | .ldDtVx _ => [.dt, .pc]
  | .ldStVx _ => [.st, .pc]
  | .ldB _ | .stRegs _ => [.mem, .pc] ++ haltFields
  | .ldRegs _ => [.v, .pc] ++ haltFields

theorem State.enterHalt_onlyChanges (s : State) (c : Cause) (a : Nat) : s.OnlyChanges (s.enterHalt c a) haltFields := by
  intro f hf
  cases f <;> simp_all [State.sameField, State.readByte, haltFields]

theorem State.storeBytes_onlyChanges (s : State) (bs : List Byte) : s.OnlyChanges (s.storeBytes bs) [.mem, .pc] := by
  intro f hf
  cases f <;> simp_all [State.sameField, State.storeBytes]

/-- The effect of a draw: the framebuffer the drawing unit left, the request, the flag, the next word. -/
def State.drawn (s : State) (d : DrawState) : State :=
  ({ s with fb := d.fb, req := .draw }.setV vf (flagByte d.collision)).advance

theorem exec_drw (x y : Reg) (n : Nibble) (s : State) : exec (.drw x y n) s = checkRange (s.effAddr 0) n.toNat s
    (s.drawn (drawSprite s.fb s.mem (s.effAddr 0) (s.getV y).toNat (s.getV x).toNat n.toNat)) := rfl

theorem State.drawn_onlyChanges (s : State) (d : DrawState) : s.OnlyChanges (s.drawn d) [.v, .fb, .req, .pc] := by
  intro f hf
  cases f <;> simp_all [State.sameField, State.readByte, State.drawn]

/-- The start of a key wait (R171). -/
def State.beginWait (s : State) (x : Reg) : State := { s with mode := .awaitKey, kreg := x, req := .awaitKey }

theorem State.beginWait_onlyChanges (s : State) (x : Reg) : s.OnlyChanges (s.beginWait x) [.mode, .kreg, .req] := by
  intro f hf
  cases f <;> simp_all [State.sameField, State.readByte, State.beginWait]

theorem exec_ldVxK_of_key {s : State} {k : Nibble} (x : Reg) (hk : s.key = some k) :
    exec (.ldVxK x) s = .next (s.writePlain x (byteOfKey k)) := by simp [exec, execLdVxK, hk]

theorem exec_ldVxK_of_no_key {s : State} (x : Reg) (hk : s.key = none) :
    exec (.ldVxK x) s = .next (s.beginWait x) := by simp [exec, execLdVxK, hk, State.beginWait]

/-- A range-checked access changes what its effect changes, or what a fault does. -/
theorem checkRange_onlyChanges {s k t : State} {count : Nat} {fs : List Field}
    (h : checkRange (s.effAddr 0) count s k = .next t) (hk : s.OnlyChanges k fs) : s.OnlyChanges t (fs ++ haltFields) := by
  rcases checkRange_next h with rfl | ⟨-, -, rfl⟩
  · exact hk.mono fun f => List.mem_append_left _
  · exact (s.enterHalt_onlyChanges _ _).mono fun f => List.mem_append_right _

/-- An instruction changes no field but those of its footprint. -/
theorem exec_onlyChanges {i : Instr} {s t : State} (h : exec i s = .next t) : s.OnlyChanges t (footprint i) := by
  cases i
  case cls => cases h; exact s.clearScreen_onlyChanges
  case ret =>
    rcases exec_ret_next h with rfl | ⟨w, rfl⟩
    · exact (s.enterHalt_onlyChanges _ _).mono fun f => List.mem_append_right _
    · exact (s.pop_setPc_onlyChanges w).mono fun f => List.mem_append_left _
  case call =>
    rcases exec_call_next h with rfl | ⟨hsp, rfl⟩
    · exact (s.enterHalt_onlyChanges _ _).mono fun f => List.mem_append_right _
    · exact (s.push_setPc_onlyChanges _ _ hsp).mono fun f => List.mem_append_left _
  case ldVxK x =>
    cases hk : s.key with
    | some k =>
      cases (exec_ldVxK_of_key x hk).symm.trans h
      exact (s.writePlain_onlyChanges x _).mono (by simp [footprint])
    | none =>
      cases (exec_ldVxK_of_no_key x hk).symm.trans h
      exact (s.beginWait_onlyChanges x).mono (by simp [footprint])
  case drw => exact checkRange_onlyChanges h (s.drawn_onlyChanges _)
  case ldB | stRegs => exact checkRange_onlyChanges h (s.storeBytes_onlyChanges _)
  case ldRegs => exact checkRange_onlyChanges h (s.loadRegs_onlyChanges _)
  case ldDtVx => cases h; exact s.writeDt_onlyChanges _
  case ldStVx => cases h; exact s.writeSt_onlyChanges _
  case ldI | addI | ldF => cases h; exact s.writeI_onlyChanges _
  case jp | jpV0 | seImm | sneImm | seReg | sneReg => cases h; exact s.setPc_onlyChanges _
  case addReg | subReg | shr | subnReg | shl => cases h; exact s.writeFlagged_onlyChanges _ _ _
  all_goals (cases h; exact s.writePlain_onlyChanges _ _)

/-- A field that an instruction changed is one of its footprint. -/
theorem mem_footprint_of_changed {i : Instr} {s t : State} {f : Field} (h : exec i s = .next t) (hf : ¬ s.sameField t f) :
    f ∈ footprint i := not_imp_comm.mp (exec_onlyChanges h f) hf

/-! ### Whose footprint holds which field -/

theorem i_mem_footprint {i : Instr} (h : .i ∈ footprint i) : (∃ nnn, i = .ldI nnn) ∨ (∃ x, i = .addI x) ∨ ∃ x, i = .ldF x := by
  cases i <;> simp_all [footprint, haltFields]

theorem sp_mem_footprint {i : Instr} (h : .sp ∈ footprint i) : i = .ret ∨ ∃ nnn, i = .call nnn := by
  cases i <;> simp_all [footprint, haltFields]

theorem stack_mem_footprint {i : Instr} (h : .stack ∈ footprint i) : ∃ nnn, i = .call nnn := by
  cases i <;> simp_all [footprint, haltFields]

theorem dt_mem_footprint {i : Instr} (h : .dt ∈ footprint i) : ∃ x, i = .ldDtVx x := by
  cases i <;> simp_all [footprint, haltFields]

theorem st_mem_footprint {i : Instr} (h : .st ∈ footprint i) : ∃ x, i = .ldStVx x := by
  cases i <;> simp_all [footprint, haltFields]

theorem kreg_mem_footprint {i : Instr} (h : .kreg ∈ footprint i) : ∃ x, i = .ldVxK x := by
  cases i <;> simp_all [footprint, haltFields]

theorem fb_mem_footprint {i : Instr} (h : .fb ∈ footprint i) : i = .cls ∨ ∃ x y n, i = .drw x y n := by
  cases i <;> simp_all [footprint, haltFields]

theorem mem_mem_footprint {i : Instr} (h : .mem ∈ footprint i) : (∃ x, i = .ldB x) ∨ ∃ x, i = .stRegs x := by
  cases i <;> simp_all [footprint, haltFields]

/-- How an instruction can change `MODE` (R31). -/
theorem exec_mode_cases {i : Instr} {s t : State} (h : exec i s = .next t) :
    t.mode = s.mode ∨ (t.mode = .awaitKey ∧ ∃ x, i = .ldVxK x)
      ∨ (t.mode = .halted ∧ (i = .ret ∨ (∃ nnn, i = .call nnn) ∨ 0 < i.dataBytes)) := by
  rcases exec_cases h with ⟨hm, -⟩ | ⟨x, hi, -, rfl⟩ | ⟨nnn, hi, -, rfl⟩ | ⟨hi, -, rfl⟩ | ⟨hi, -, rfl⟩
  · exact .inl hm
  · exact .inr (.inl ⟨rfl, x, hi⟩)
  · exact .inr (.inr ⟨rfl, .inr (.inl ⟨nnn, hi⟩)⟩)
  · exact .inr (.inr ⟨rfl, .inl hi⟩)
  · exact .inr (.inr ⟨rfl, .inr (.inr hi)⟩)

/-- No instruction but a call and a return touches the stack (R129). -/
theorem exec_keeps_stack {i : Instr} {s t : State} (hr : i ≠ .ret) (hc : ∀ nnn, i ≠ .call nnn) (h : exec i s = .next t) :
    t.sp = s.sp ∧ t.stack = s.stack := by
  have hsp : .sp ∉ footprint i := fun hm => (sp_mem_footprint hm).elim hr fun ⟨nnn, hi⟩ => hc nnn hi
  have hstack : .stack ∉ footprint i := fun hm => (stack_mem_footprint hm).elim fun nnn hi => hc nnn hi
  exact ⟨exec_onlyChanges h _ hsp, exec_onlyChanges h _ hstack⟩

/-! ### The writers of the general registers (R20 to R22) -/

theorem State.getV_drawn (s : State) (d : DrawState) (j : Reg) :
    (s.drawn d).getV j = if j = vf then flagByte d.collision else s.getV j := by
  simp only [State.drawn, State.getV_advance, State.getV_setV]
  rfl

/-- A plain write changes no register but the destination the instruction names. -/
theorem writesReg_of_writePlain {i : Instr} {s t : State} {x j : Reg} {b : Byte} (hw : exec i s = .next (s.writePlain x b))
    (hx : i.writesReg x = true) (h : exec i s = .next t) (hj : t.getV j ≠ s.getV j) : i.writesReg j = true := by
  cases hw.symm.trans h
  by_cases hjx : j = x
  · rwa [hjx]
  · exact absurd (by simp [hjx]) hj

/-- A write of a result and its flag changes no register but the destination the instruction names, and `VF`. -/
theorem writes_of_writeFlagged {i : Instr} {s t : State} {x j : Reg} {b f : Byte}
    (hw : exec i s = .next (s.writeFlagged x b f)) (hx : i.writesReg x = true) (hf : i.writesFlag = true)
    (h : exec i s = .next t) (hj : t.getV j ≠ s.getV j) : i.writesReg j = true ∨ (i.writesFlag = true ∧ j = vf) := by
  cases hw.symm.trans h
  by_cases hjx : j = x
  · exact .inl (by rwa [hjx])
  · by_cases hjf : j = vf
    · exact .inr ⟨hf, hjf⟩
    · exact absurd (by simp [hjx, hjf]) hj

/-- A register that an instruction changed is a destination it names, or `VF` as a flag. -/
theorem exec_getV_changed {i : Instr} {s t : State} {j : Reg} (h : exec i s = .next t) (hj : t.getV j ≠ s.getV j) :
    i.writesReg j = true ∨ (i.writesFlag = true ∧ j = vf) := by
  have hv : .v ∈ footprint i := mem_footprint_of_changed h fun hsame => hj (State.getV_congr hsame j)
  cases i
  case ldVxK x =>
    cases hk : s.key with
    | some k => exact .inl (writesReg_of_writePlain (exec_ldVxK_of_key x hk) (beq_self_eq_true _) h hj)
    | none =>
      cases (exec_ldVxK_of_no_key x hk).symm.trans h
      exact absurd rfl hj
  case drw x y n =>
    refine .inr ⟨rfl, ?_⟩
    rcases checkRange_next h with rfl | ⟨-, -, rfl⟩
    · by_contra hne
      exact hj ((s.getV_drawn _ j).trans (if_neg hne))
    · exact absurd rfl hj
  case ldRegs x =>
    left
    rcases checkRange_next h with rfl | ⟨-, -, rfl⟩
    · by_contra hle
      have hnot : ¬ j.toNat < x.toNat + 1 := by simpa [Instr.writesReg, Nat.lt_succ_iff] using hle
      exact hj ((s.getV_loadRegs _ j).trans (if_neg hnot))
    · exact absurd rfl hj
  case addReg | subReg | shr | subnReg | shl => exact writes_of_writeFlagged rfl (beq_self_eq_true _) rfl h hj
  case ldImm | addImm | ldReg | orReg | andReg | xorReg | rnd | ldVxDt =>
    exact .inl (writesReg_of_writePlain rfl (beq_self_eq_true _) h hj)
  all_goals simp [footprint, haltFields] at hv

/-- After one of the six flag writers, completed, `VF` holds a flag (R143). -/
theorem exec_vf_of_writesFlag {i : Instr} {s t : State} (h : exec i s = .next t) (hi : i.writesFlag = true)
    (ht : t.mode = .running) : ∃ c, t.getV vf = flagByte c := by
  cases i
  case drw =>
    rcases checkRange_next h with rfl | ⟨-, -, rfl⟩
    · exact ⟨_, s.getV_drawn _ vf⟩
    · cases ht
  case addReg | subReg | subnReg => cases h; exact ⟨_, s.getV_writeFlagged_vf _ _ _⟩
  case shr => cases h; exact ⟨_, (s.getV_writeFlagged_vf _ _ _).trans (shiftedOutLow_eq _)⟩
  case shl => cases h; exact ⟨_, (s.getV_writeFlagged_vf _ _ _).trans (shiftedOutHigh_eq _)⟩
  all_goals cases hi

end Sys2Proof.Machine

open Sys2Proof Sys2Proof.Machine

/-- Settles O27: a changed field is in the instruction's footprint, and the footprints name its writers. -/
theorem elementWriters : Obligations.ElementWriters := by
  unfold Obligations.ElementWriters
  intro i s t h
  exact ⟨fun hne => i_mem_footprint (mem_footprint_of_changed h hne),
    fun hne => sp_mem_footprint (mem_footprint_of_changed h hne),
    fun hne => stack_mem_footprint (mem_footprint_of_changed h hne),
    fun hne => dt_mem_footprint (mem_footprint_of_changed h hne),
    fun hne => st_mem_footprint (mem_footprint_of_changed h hne),
    fun hne => kreg_mem_footprint (mem_footprint_of_changed h hne),
    fun hne => fb_mem_footprint (mem_footprint_of_changed h hne),
    fun hne => mem_mem_footprint (mem_footprint_of_changed h fun hsame => hne hsame.1),
    (exec_mode_cases h).resolve_left⟩

/-- Settles O28: the registers of each kind of write, and the flag as its last. -/
theorem registerAndFlagWriters : Obligations.RegisterAndFlagWriters := by
  unfold Obligations.RegisterAndFlagWriters
  intro i s t h
  refine ⟨fun j => exec_getV_changed h, fun hi _ ht => ?_⟩
  obtain ⟨c, hc⟩ := exec_vf_of_writesFlag h hi ht
  exact hc ▸ flagByte_eq c

/-- Settles O33: the call fills the slot at the old depth, and a return from one above it reads that slot. -/
theorem callThenReturnRoundTrip : Obligations.CallThenReturnRoundTrip := by
  unfold Obligations.CallThenReturnRoundTrip
  refine ⟨fun nnn s hsp => ⟨_, exec_call_of_room nnn hsp, fun u husp hstack => ?_⟩, fun i s t => exec_keeps_stack⟩
  have hdepth : u.sp.toNat = s.sp.toNat + 1 := by rw [husp]; exact State.push_sp_toNat s.pc hsp
  have hslot : u.stack[s.sp.toNat]'hsp = s.pc := by
    rw [hstack _ hsp (by rw [← husp]; omega)]
    exact (State.getElem_push_stack s.pc hsp _ hsp).trans (if_pos rfl)
  refine ⟨_, exec_ret_of_depth hsp hdepth, ?_, BitVec.eq_of_toNat_eq (State.pop_sp_toNat hdepth)⟩
  rw [State.setPc_pc, hslot, BitVec.toNat_add]
  rfl
end

section
/-! PROOFS. Events and the environment (10_state.md R40, 60_exceptions.md R195, R199, R200, R202, 70_reset_and_hazards.md R210): the
inputs, the schedule and the count of free events are seen by nothing but the two instructions that sample an input, so an
event acts alike whatever they are, and a run is the handling of its events in order. -/

namespace Sys2Proof.Machine

/-! ### A change of the inputs, the schedule and the count of free events -/

/-- `s` with its inputs, its schedule and its count of free events changed, and nothing else. -/
def State.mapEnv (s : State) (fk : Option Nibble → Option Nibble) (fr : Byte → Byte) (fe : List Event → List Event)
    (fd : Nat → Nat) : State :=
  { s with key := fk s.key, rand := fr s.rand, events := fe s.events, draws := fd s.draws }

section
variable (fk : Option Nibble → Option Nibble) (fr : Byte → Byte) (fe : List Event → List Event) (fd : Nat → Nat)

/-- A range-checked access does not see it, where its effect does not. -/
theorem exec_mapEnv_of_checkRange {i : Instr} {count : Nat} {effect : State → State} {s : State}
    (hx : ∀ u, exec i u = checkRange (u.effAddr 0) count u (effect u))
    (he : effect (s.mapEnv fk fr fe fd) = (effect s).mapEnv fk fr fe fd) :
    exec i (s.mapEnv fk fr fe fd) = mapNext (fun t => t.mapEnv fk fr fe fd) (exec i s) := by
  rw [hx, hx, he]
  unfold checkRange
  change (if outOfRange (s.effAddr 0) count then _ else _) = _
  split <;> rfl

/-- No instruction sees such a change but `Fx0A`, of KEY, and `Cxkk`, of RAND (R200, R202). -/
theorem exec_mapEnv (i : Instr) (s : State) (hk : ∀ x, i = .ldVxK x → fk = id) (hr : ∀ x kk, i = .rnd x kk → fr = id) :
    exec i (s.mapEnv fk fr fe fd) = mapNext (fun t => t.mapEnv fk fr fe fd) (exec i s) := by
  cases i
  case ldVxK x =>
    obtain rfl := hk x rfl
    cases hkey : s.key with
    | some k => rw [exec_ldVxK_of_key x hkey, exec_ldVxK_of_key x (s := s.mapEnv id fr fe fd) hkey]; rfl
    | none => rw [exec_ldVxK_of_no_key x hkey, exec_ldVxK_of_no_key x (s := s.mapEnv id fr fe fd) hkey]; rfl
  case rnd x kk =>
    obtain rfl := hr x kk rfl
    rfl
  case ret =>
    rcases s.ret_depth_cases with h | ⟨k, hk, h⟩ | h
    · rw [exec_ret_of_empty h, exec_ret_of_empty (s := s.mapEnv fk fr fe fd) h]; rfl
    · rw [exec_ret_of_depth hk h, exec_ret_of_depth (s := s.mapEnv fk fr fe fd) hk h]; rfl
    · rw [exec_ret_of_absent h, exec_ret_of_absent (s := s.mapEnv fk fr fe fd) h]; rfl
  case call nnn =>
    rcases s.call_depth_cases with h | h | h
    · rw [exec_call_of_full nnn h, exec_call_of_full (s := s.mapEnv fk fr fe fd) nnn h]; rfl
    · rw [exec_call_of_room nnn h, exec_call_of_room (s := s.mapEnv fk fr fe fd) nnn h]; rfl
    · rw [exec_call_of_absent nnn h, exec_call_of_absent (s := s.mapEnv fk fr fe fd) nnn h]; rfl
  case drw x y n => exact exec_mapEnv_of_checkRange fk fr fe fd (exec_drw x y n) rfl
  case ldB x => exact exec_mapEnv_of_checkRange fk fr fe fd (exec_ldB x) rfl
  case stRegs x => exact exec_mapEnv_of_checkRange fk fr fe fd (exec_stRegs x) rfl
  case ldRegs x => exact exec_mapEnv_of_checkRange fk fr fe fd (exec_ldRegs x) rfl
  all_goals rfl

theorem runInstruction_mapEnv (s : State) :
    runInstruction (s.mapEnv id id fe fd) = mapNext (fun t => t.mapEnv id id fe fd) (runInstruction s) := by
  have hf : (s.mapEnv id id fe fd).fetchable = s.fetchable := rfl
  have hw : (s.mapEnv id id fe fd).fetchWord = s.fetchWord := rfl
  unfold runInstruction
  rw [hf, hw]
  cases s.fetchable with
  | false => rfl
  | true =>
    cases decode s.fetchWord with
    | instr i => exact exec_mapEnv id id fe fd i s (fun _ _ => rfl) fun _ _ _ => rfl
    | rejected r => rfl

theorem State.continueKeyWait_mapEnv (s : State) :
    (s.mapEnv id id fe fd).continueKeyWait = s.continueKeyWait.mapEnv id id fe fd := by
  have hk : (s.mapEnv id id fe fd).key = s.key := rfl
  unfold State.continueKeyWait
  rw [hk]
  cases s.key <;> rfl

theorem engineStep_mapEnv (s : State) :
    engineStep (s.mapEnv id id fe fd) = mapNext (fun t => t.mapEnv id id fe fd) (engineStep s) := by
  have hm : (s.mapEnv id id fe fd).mode = s.mode := rfl
  unfold engineStep
  rw [hm]
  cases s.mode with
  | halted => rfl
  | awaitKey => exact congrArg Host.Outcome.next (s.continueKeyWait_mapEnv fe fd)
  | running => exact runInstruction_mapEnv fe fd s

/-- An event acts alike whatever the schedule and the count of free events are (R40). -/
theorem handleEvent_mapEnv (e : Event) (s : State) :
    handleEvent e (s.mapEnv id id fe fd) = mapNext (fun t => t.mapEnv id id fe fd) (handleEvent e s) := by
  cases e with
  | step k r => exact engineStep_mapEnv fe fd (s.beginStep k r)
  | tick => rfl
  | reset => rfl

end

/-- The rest of the schedule is not seen by an event. -/
theorem handleEvent_events (e : Event) (s : State) (es : List Event) :
    handleEvent e { s with events := es } = mapNext (fun t => { t with events := es }) (handleEvent e s) :=
  handleEvent_mapEnv (fun _ => es) id e s

/-- The count of free events is not seen by an event. -/
theorem handleEvent_draws (e : Event) (s : State) (d : Nat) :
    handleEvent e { s with draws := d } = mapNext (fun t => { t with draws := d }) (handleEvent e s) :=
  handleEvent_mapEnv id (fun _ => d) e s

/-- An event leaves the schedule to the environment. -/
theorem handleEvent_keeps_events {e : Event} {s t : State} (h : handleEvent e s = .next t) : t.events = s.events := by
  have hself : handleEvent e s = mapNext (fun u => { u with events := s.events }) (handleEvent e s) :=
    handleEvent_events e s s.events
  rw [h] at hself
  injection hself with ht
  have hev := congrArg State.events ht
  exact hev

/-! ### Events and steps in sequence -/

/-- What follows a next state; a fault or a refusal ends the run. -/
def andThen (r : Result) (g : State → Result) : Result :=
  match r with
  | .next t => g t
  | .fault c => .fault c
  | .refused c => .refused c

theorem handleAll_cons (e : Event) (es : List Event) (s : State) :
    handleAll (e :: es) s = andThen (handleEvent e s) (handleAll es) := by
  cases h : handleEvent e s <;> simp only [handleAll, h, andThen]

theorem run_succ (k : Nat) (s : State) :
    Host.Core.run Sys2Proof.core (k + 1) s = andThen (step s) (Host.Core.run Sys2Proof.core k) := by
  have hcore : Sys2Proof.core.step s = step s := rfl
  cases h : step s <;> simp only [Host.Core.run, hcore, h, andThen] <;> rfl

theorem handleAll_draws (es : List Event) (s : State) (d : Nat) :
    handleAll es { s with draws := d } = mapNext (fun t => { t with draws := d }) (handleAll es s) := by
  induction es generalizing s with
  | nil => rfl
  | cons e es ih =>
    rw [handleAll_cons, handleAll_cons, handleEvent_draws]
    cases handleEvent e s with
    | next t => exact ih t
    | fault r => rfl
    | refused r => rfl

/-! ### One step takes one event -/

theorem step_of_cons (s : State) (e : Event) (es : List Event) :
    step { s with events := e :: es } = handleEvent e { s with events := es } := rfl

theorem step_of_nil {s : State} (h : s.events = []) :
    step s = handleEvent (Config.freeEvent s.draws) { s with draws := s.draws + 1 } := by
  rw [step, State.nextEvent_nil s h, State.takeEvent_nil s h]

/-! ### A run handles its events in order (R199) -/

/-- A run of as many steps as the schedule lists handles the schedule. -/
theorem run_schedule (es rest : List Event) (s : State) :
    Host.Core.run Sys2Proof.core es.length { s with events := es ++ rest } = handleAll es { s with events := rest } := by
  induction es generalizing s with
  | nil => rfl
  | cons e es ih =>
    rw [List.length_cons, List.cons_append, run_succ, handleAll_cons, step_of_cons, handleEvent_events,
      handleEvent_events e s rest]
    cases handleEvent e s with
    | next t => exact ih t
    | fault r => rfl
    | refused r => rfl

/-- With an empty schedule the steps of a run handle the next free events, and count them. -/
theorem run_free (k : Nat) (s : State) (h : s.events = []) :
    Host.Core.run Sys2Proof.core k s
      = mapNext (fun t => { t with draws := s.draws + k }) (handleAll (freeEvents s.draws k) s) := by
  induction k generalizing s with
  | zero => rfl
  | succ k ih =>
    rw [run_succ, freeEvents, handleAll_cons, step_of_nil h, handleEvent_draws]
    cases he : handleEvent (Config.freeEvent s.draws) s with
    | fault r => rfl
    | refused r => rfl
    | next t =>
      have hrest := ih { t with draws := s.draws + 1 } ((handleEvent_keeps_events he).trans h)
      rw [handleAll_draws] at hrest
      refine hrest.trans ?_
      simp only [andThen, Nat.add_assoc, Nat.add_comm 1 k]
      cases handleAll (freeEvents (s.draws + 1) k) t <;> rfl

/-! ### Many ticks (R195) -/

theorem State.ticks_dt_toNat (k : Nat) (s : State) : (s.ticks k).dt.toNat = s.dt.toNat - k := by
  induction k generalizing s with
  | zero => rfl
  | succ k ih => rw [State.ticks, ih, State.tick_dt, countDown_toNat, Nat.sub_sub, Nat.add_comm]

theorem State.ticks_st_toNat (k : Nat) (s : State) : (s.ticks k).st.toNat = s.st.toNat - k := by
  induction k generalizing s with
  | zero => rfl
  | succ k ih => rw [State.ticks, ih, State.tick_st, countDown_toNat, Nat.sub_sub, Nat.add_comm]

theorem State.ticks_onlyChanges (k : Nat) (s : State) : s.OnlyChanges (s.ticks k) [.dt, .st] := by
  induction k generalizing s with
  | zero => exact .refl s _
  | succ k ih =>
    refine .trans ?_ (ih s.tick)
    intro f hf
    cases f <;> simp_all [State.sameField, State.readByte]

theorem handleAll_replicate_tick (k : Nat) (s : State) (es : List Event) :
    handleAll (List.replicate k .tick) { s with events := es } = .next { s.ticks k with events := es } := by
  induction k generalizing s with
  | zero => rfl
  | succ k ih => exact ih s.tick

/-- A schedule of `k` TICKs is `tick(k)`. -/
theorem run_ticks (k : Nat) (s : State) (es : List Event) :
    Host.Core.run Sys2Proof.core k { s with events := List.replicate k .tick ++ es }
      = Host.Outcome.next { s.ticks k with events := es } := by
  have h := run_schedule (List.replicate k .tick) es s
  rw [List.length_replicate] at h
  exact h.trans (handleAll_replicate_tick k s es)

/-! ### The state after reset (R43, R210) -/

theorem State.reset_getV (j : Reg) : State.reset.getV j = 0x00#8 := Vector.getElem_replicate _

theorem State.reset_readPort (r : Fin Config.fbHeight) (c : Fin Config.fbWidth) : State.reset.readPort r c = false :=
  Framebuffer.pixel_blank r c

theorem State.reset_hasResetValues : State.reset.HasResetValues :=
  ⟨State.reset_getV, rfl, rfl, rfl, rfl, rfl, rfl, rfl, rfl, State.reset_readPort⟩

theorem State.resetEvent_hasResetValues (s : State) : s.resetEvent.HasResetValues := State.reset_hasResetValues

end Sys2Proof.Machine

open Sys2Proof Sys2Proof.Machine

/-- Settles O22: another schedule is a change of the environment, which no event sees. -/
theorem scheduleIsInvisible : Obligations.ScheduleIsInvisible := by
  unfold Obligations.ScheduleIsInvisible
  exact handleEvent_events

/-- Settles O23: the change of one input is a change of the environment that the one instruction alone could see. -/
theorem inputsReachOneInstructionEach : Obligations.InputsReachOneInstructionEach := by
  unfold Obligations.InputsReachOneInstructionEach
  exact ⟨fun i s key hi => exec_mapEnv (fun _ => key) id id id i s (fun x hx => absurd hx (hi x)) fun _ _ _ => rfl,
    fun i s rand hi => exec_mapEnv id (fun _ => rand) id id i s (fun _ _ => rfl) fun x kk hx => absurd hx (hi x kk)⟩

/-- Settles O7: by what `nextEvent` and `takeEvent` give for each form of the schedule. -/
theorem stepTakesTheNextEvent : Obligations.StepTakesTheNextEvent := by
  unfold Obligations.StepTakesTheNextEvent
  exact ⟨step_of_cons, fun _ => step_of_nil⟩

/-- Settles O18: by induction on the schedule, and on the number of free events. -/
theorem everyInterleavingHappens : Obligations.EveryInterleavingHappens := by
  unfold Obligations.EveryInterleavingHappens
  exact ⟨run_schedule, run_free⟩

/-- Settles O19: subtraction of naturals is the count down that stops at 0. -/
theorem manyTicksSaturate : Obligations.ManyTicksSaturate := by
  unfold Obligations.ManyTicksSaturate
  exact fun k s => ⟨s.ticks_dt_toNat k, s.ticks_st_toNat k, s.ticks_onlyChanges k, run_ticks k s⟩

/-- Settles O21: a RESET is the state after reset but for memory, the schedule and the count of free events. -/
theorem resetGivesTheResetValues : Obligations.ResetGivesTheResetValues := by
  unfold Obligations.ResetGivesTheResetValues
  refine ⟨State.reset_hasResetValues, fun s he => ?_⟩
  exact ⟨_, step_of_reset he, State.resetEvent_hasResetValues _, by simp, fun a => State.readByte_congr (by simp) a, rfl, rfl,
    rfl⟩
end

section
/-! PROOFS. The invariants (10_state.md R25, R26, R29, R31, 60_exceptions.md R181, R190, R191): from every state that meets them there
is a next state, and it meets them; and the table of the faults a STEP raises, condition by condition. -/

namespace Sys2Proof.Machine

/-! ### A STEP of a word that decodes -/

theorem step_of_instr {s : State} {k : Option Nibble} {r : Byte} {i : Instr} (he : s.nextEvent = .step k r)
    (hm : s.mode = .running) (hf : s.fetchable = true) (hd : decode s.fetchWord = .instr i) :
    step s = exec i (s.takeEvent.beginStep k r) := by
  rcases step_of_running he hm with ⟨hf', -⟩ | ⟨-, j, hj, hs⟩ | ⟨-, hrej, -⟩
  · simp [hf] at hf'
  · cases hd.symm.trans hj; exact hs
  · cases hd.symm.trans hrej

@[simp] theorem State.fetchable_begin (s : State) (k : Option Nibble) (r : Byte) :
    (s.takeEvent.beginStep k r).fetchable = s.fetchable := State.fetchable_congr (by simp)

@[simp] theorem State.fetchWord_begin (s : State) (k : Option Nibble) (r : Byte) :
    (s.takeEvent.beginStep k r).fetchWord = s.fetchWord := State.fetchWord_congr (by simp) (by simp)

/-! ### Progress: with `SP` at most 16 there is a next state -/

theorem checkRange_exists_next (a count : Nat) (s k : State) : ∃ t, checkRange a count s k = .next t := by
  rcases checkRange_cases a count s k with ⟨-, h⟩ | ⟨-, h⟩ <;> exact ⟨_, h⟩

theorem exec_exists_next (i : Instr) {s : State} (hsp : s.sp.toNat ≤ Config.stackDepth) : ∃ t, exec i s = .next t := by
  cases i
  case ret =>
    rcases s.ret_depth_cases with h | ⟨k, hk, h⟩ | h
    · exact ⟨_, exec_ret_of_empty h⟩
    · exact ⟨_, exec_ret_of_depth hk h⟩
    · exact absurd hsp (Nat.not_le.mpr h)
  case call nnn =>
    rcases s.call_depth_cases with h | h | h
    · exact ⟨_, exec_call_of_full nnn h⟩
    · exact ⟨_, exec_call_of_room nnn h⟩
    · exact absurd hsp (Nat.not_le.mpr h)
  case drw | ldB | stRegs | ldRegs => exact checkRange_exists_next _ _ _ _
  all_goals exact ⟨_, rfl⟩

theorem step_exists_next {s : State} (hsp : s.sp.toNat ≤ Config.stackDepth) : ∃ t, step s = .next t := by
  cases he : s.nextEvent with
  | tick => exact ⟨_, step_of_tick he⟩
  | reset => exact ⟨_, step_of_reset he⟩
  | step k r =>
    cases hm : s.mode with
    | halted => exact ⟨_, step_of_halted he hm⟩
    | awaitKey => exact ⟨_, step_of_awaitKey he hm⟩
    | running =>
      rcases step_of_running he hm with ⟨-, hs⟩ | ⟨-, i, -, hs⟩ | ⟨-, -, hs⟩
      · exact ⟨_, hs⟩
      · rw [hs]
        exact exec_exists_next i (by simpa using hsp)
      · exact ⟨_, hs⟩

/-! ### The faults a STEP raises (R181) -/

/-- The condition of each cause on the state a STEP begins in. -/
def State.faultCondition (s : State) : Cause → Prop
  | .none => False
  | .fetchOob => Config.memSize - 1 ≤ s.pc.toNat
  | .dataOob => s.pc.toNat < Config.memSize - 1 ∧ ∃ i, decode s.fetchWord = .instr i
      ∧ 0 < i.dataBytes ∧ Config.memSize ≤ s.i.toNat + i.dataBytes - 1
  | .stackOverflow => s.pc.toNat < Config.memSize - 1 ∧ s.sp = 16#8 ∧ ∃ nnn, decode s.fetchWord = .instr (.call nnn)
  | .stackUnderflow => s.pc.toNat < Config.memSize - 1 ∧ s.sp = 0#8 ∧ decode s.fetchWord = .instr .ret

/-- The address each cause records. -/
def State.faultAddr (s : State) : Cause → Nat
  | .none => 0
  | .fetchOob | .stackOverflow | .stackUnderflow => s.pc.toNat
  | .dataOob => max s.i.toNat Config.memSize

theorem State.faultAddr_lt (s : State) (c : Cause) : s.faultAddr c < 131072 := by
  have hi := s.i.isLt
  have hpc := s.pc.isLt
  cases c <;> simp only [State.faultAddr, Config.memSize] <;> omega

theorem exec_of_dataOob {i : Instr} {s : State} (hpos : 0 < i.dataBytes)
    (hout : Config.memSize ≤ s.i.toNat + i.dataBytes - 1) :
    exec i s = .next (s.enterHalt .dataOob (max s.i.toNat Config.memSize)) := by
  cases i
  case drw | ldB | stRegs | ldRegs => exact checkRange_of_outOfRange hpos hout
  all_goals exact absurd hpos (Nat.lt_irrefl 0)

/-- Where a cause's condition holds, the STEP takes that fault. -/
theorem step_of_faultCondition {s : State} {k : Option Nibble} {r : Byte} {c : Cause} (he : s.nextEvent = .step k r)
    (hm : s.mode = .running) (hc : s.faultCondition c) :
    step s = .next ((s.takeEvent.beginStep k r).enterHalt c (s.faultAddr c)) := by
  cases c with
  | none => exact hc.elim
  | fetchOob => exact step_of_not_fetchable he hm (s.not_fetchable_iff.mpr hc)
  | dataOob =>
    obtain ⟨hpc, i, hd, hpos, hout⟩ := hc
    rw [step_of_instr he hm (s.fetchable_iff.mpr hpc) hd, exec_of_dataOob hpos (by simpa using hout)]
    simp [State.faultAddr]
  | stackOverflow =>
    obtain ⟨hpc, hsp, nnn, hd⟩ := hc
    rw [step_of_instr he hm (s.fetchable_iff.mpr hpc) hd, exec_call_of_full nnn (by simpa using hsp)]
    simp [State.faultAddr]
  | stackUnderflow =>
    obtain ⟨hpc, hsp, hd⟩ := hc
    rw [step_of_instr he hm (s.fetchable_iff.mpr hpc) hd, exec_ret_of_empty (by simpa using hsp)]
    simp [State.faultAddr]

/-- A STEP in RUNNING mode leaves the fault registers and does not halt, or it takes a fault whose condition held. -/
theorem step_fault_cases {s t : State} {k : Option Nibble} {r : Byte} (he : s.nextEvent = .step k r)
    (hm : s.mode = .running) (h : step s = .next t) :
    (t.fcause = s.fcause ∧ t.faddr = s.faddr ∧ t.mode ≠ .halted)
      ∨ ∃ c, s.faultCondition c ∧ t = (s.takeEvent.beginStep k r).enterHalt c (s.faultAddr c) := by
  rcases step_of_running he hm with ⟨hf, hs⟩ | ⟨hf, i, hd, hs⟩ | ⟨-, -, hs⟩
  · cases hs.symm.trans h
    exact .inr ⟨.fetchOob, s.not_fetchable_iff.mp hf, rfl⟩
  · have hpc := s.fetchable_iff.mp hf
    rcases exec_cases (hs.symm.trans h) with ⟨hmode, hcause, haddr, -⟩ | ⟨x, -, -, rfl⟩ | ⟨nnn, rfl, hsp, rfl⟩
      | ⟨rfl, hsp, rfl⟩ | ⟨hpos, hout, rfl⟩
    · exact .inl ⟨by simpa using hcause, by simpa using haddr, by simp [hmode, hm]⟩
    · exact .inl ⟨by simp, by simp, nofun⟩
    · exact .inr ⟨.stackOverflow, ⟨hpc, by simpa using hsp, nnn, hd⟩, by simp [State.faultAddr]⟩
    · exact .inr ⟨.stackUnderflow, ⟨hpc, by simpa using hsp, hd⟩, by simp [State.faultAddr]⟩
    · exact .inr ⟨.dataOob, ⟨hpc, i, hd, hpos, by simpa using hout⟩, by simp [State.faultAddr]⟩
  · cases hs.symm.trans h
    exact .inl ⟨by simp, by simp, by simp [hm]⟩

/-- The cause on record after a STEP that began with none is `c` exactly where `c`'s condition held. -/
theorem step_fcause_iff {s t : State} {k : Option Nibble} {r : Byte} {c : Cause} (he : s.nextEvent = .step k r)
    (hm : s.mode = .running) (hs : s.fcause = .none) (h : step s = .next t) (hc : c ≠ .none) :
    t.fcause = c ↔ s.faultCondition c := by
  constructor
  · rintro rfl
    rcases step_fault_cases he hm h with ⟨hcause, -⟩ | ⟨c, hcond, rfl⟩
    · exact absurd (hcause.trans hs) hc
    · exact hcond
  · intro hcond
    cases (step_of_faultCondition he hm hcond).symm.trans h
    rfl

/-! ### The parts of the invariant that concern the stack -/

/-- The depth is at most 16, and every open call is at a place of fetch (R25, R26). -/
def State.StackLegal (s : State) : Prop :=
  s.sp.toNat ≤ Config.stackDepth
    ∧ ∀ (k : Nat) (h : k < Config.stackDepth), k < s.sp.toNat → (s.stack[k]'h).toNat < Config.memSize - 1

theorem State.StackLegal.congr {s t : State} (hs : s.StackLegal) (hsp : t.sp = s.sp) (hstack : t.stack = s.stack) :
    t.StackLegal := by
  unfold State.StackLegal
  rwa [hsp, hstack]

/-- A call pushes the address it was fetched from; a return uncovers nothing; no other instruction touches the stack. -/
theorem exec_keeps_stackLegal {i : Instr} {s t : State} (hs : s.StackLegal) (hf : s.fetchable = true)
    (h : exec i s = .next t) : t.StackLegal := by
  by_cases hret : i = .ret
  · subst hret
    rcases s.ret_depth_cases with hsp | ⟨k, hk, hsp⟩ | hsp
    · cases (exec_ret_of_empty hsp).symm.trans h
      exact hs.congr rfl rfl
    · cases (exec_ret_of_depth hk hsp).symm.trans h
      have hpop : s.pop.sp.toNat = k := State.pop_sp_toNat hsp
      refine ⟨hpop.trans_le hk.le, fun j hj hjk => hs.2 j hj ?_⟩
      have hjk' : j < k := hjk.trans_eq hpop
      omega
    · exact absurd hs.1 (Nat.not_le.mpr hsp)
  by_cases hcall : ∃ nnn, i = .call nnn
  · obtain ⟨nnn, rfl⟩ := hcall
    rcases s.call_depth_cases with hsp | hsp | hsp
    · cases (exec_call_of_full nnn hsp).symm.trans h
      exact hs.congr rfl rfl
    · cases (exec_call_of_room nnn hsp).symm.trans h
      have hpush : (s.push s.pc hsp).sp.toNat = s.sp.toNat + 1 := State.push_sp_toNat s.pc hsp
      refine ⟨hpush.trans_le hsp, fun j hj hjk => ?_⟩
      have hjk' : j < s.sp.toNat + 1 := hjk.trans_eq hpush
      change ((s.push s.pc hsp).stack[j]'hj).toNat < Config.memSize - 1
      rw [State.getElem_push_stack]
      split
      · exact s.fetchable_iff.mp hf
      · exact hs.2 j hj (by omega)
    · exact absurd hs.1 (Nat.not_le.mpr hsp)
  · obtain ⟨hsp, hstack⟩ := exec_keeps_stack hret (fun nnn hi => hcall ⟨nnn, hi⟩) h
    exact hs.congr hsp hstack

/-! ### The invariant (R25, R26, R29, R31) -/

theorem State.Inv.stackLegal {s : State} (hs : s.Inv) : s.StackLegal := ⟨hs.depthLegal, hs.openCallFetched⟩

/-- The fields no part of the invariant speaks of. -/
def freeFields : List Field := [.v, .i, .dt, .st, .fb, .key, .rand, .req, .warn, .events, .draws]

theorem State.Inv.of_onlyChanges {s t : State} (hs : s.Inv) (h : s.OnlyChanges t freeFields) : t.Inv := by
  have hmem : t.mem = s.mem := (h .mem (by decide)).1
  have hsp : t.sp = s.sp := h .sp (by decide)
  have hstack : t.stack = s.stack := h .stack (by decide)
  have hmode : t.mode = s.mode := h .mode (by decide)
  have hcause : t.fcause = s.fcause := h .fcause (by decide)
  have haddr : t.faddr = s.faddr := h .faddr (by decide)
  have hkreg : t.kreg = s.kreg := h .kreg (by decide)
  have hpc : t.pc = s.pc := h .pc (by decide)
  obtain ⟨hdepth, hopen⟩ := hs.stackLegal.congr hsp hstack
  exact ⟨hmem ▸ hs.memCanonical, hdepth, hopen, by rw [hmode, hcause]; exact hs.causeWhileHalted,
    by rw [hmode, haddr]; exact hs.noAddressOtherwise,
    by rw [hmode, State.fetchable_congr hpc, State.fetchWord_congr hmem hpc, hkreg]; exact hs.waitAtItsInstruction⟩

/-- A state that runs, with the fault registers of one that does not halt. -/
theorem State.Inv.of_running {s t : State} (hs : s.Inv) (hnh : s.mode ≠ .halted) (hmem : Memory.wf t.mem = true)
    (hstack : t.StackLegal) (hmode : t.mode = .running) (hcause : t.fcause = s.fcause) (haddr : t.faddr = s.faddr) :
    t.Inv := by
  have hnone : s.fcause = .none := not_not.mp (mt hs.causeWhileHalted.mpr hnh)
  exact ⟨hmem, hstack.1, hstack.2, by simp [hmode, hcause, hnone], fun _ => haddr.trans (hs.noAddressOtherwise hnh),
    fun hw => by simp [hmode] at hw⟩

/-- Taking a fault keeps the invariant: a cause is recorded, and the engine is halted. -/
theorem State.Inv.enterHalt {s : State} (hs : s.Inv) {c : Cause} (hc : c ≠ .none) (a : Nat) : (s.enterHalt c a).Inv :=
  ⟨hs.memCanonical, hs.depthLegal, hs.openCallFetched, by simp [hc], fun h => absurd rfl h, nofun⟩

/-- A wait that begins at its own instruction. -/
theorem State.Inv.beginWait {s : State} (hs : s.Inv) (hnh : s.mode ≠ .halted) {x : Reg} (hf : s.fetchable = true)
    (hd : decode s.fetchWord = .instr (.ldVxK x)) : (s.beginWait x).Inv := by
  have hnone : s.fcause = .none := not_not.mp (mt hs.causeWhileHalted.mpr hnh)
  exact ⟨hs.memCanonical, hs.depthLegal, hs.openCallFetched, by simp [State.beginWait, hnone],
    fun _ => hs.noAddressOtherwise hnh, fun _ => ⟨hf, hd⟩⟩

theorem State.Inv.begin {s : State} (hs : s.Inv) (k : Option Nibble) (r : Byte) : (s.takeEvent.beginStep k r).Inv :=
  hs.of_onlyChanges ((s.onlyChanges_begin k r).mono (by decide))

theorem State.Inv.tick {s : State} (hs : s.Inv) : s.takeEvent.tick.Inv :=
  hs.of_onlyChanges (s.tick_onlyChanges.mono (by decide))

theorem State.reset_inv : State.reset.Inv :=
  ⟨rfl, by decide, fun _ _ h => absurd h (Nat.not_lt_zero _), by decide, fun _ => rfl, nofun⟩

theorem State.Inv.resetEvent {s : State} (hs : s.Inv) : s.takeEvent.resetEvent.Inv :=
  ⟨by simpa using hs.memCanonical, State.reset_inv.depthLegal, State.reset_inv.openCallFetched, State.reset_inv.causeWhileHalted,
    State.reset_inv.noAddressOtherwise, nofun⟩

theorem State.continueKeyWait_of_key {s : State} {k : Nibble} (hk : s.key = some k) :
    s.continueKeyWait = { s.writePlain s.kreg (byteOfKey k) with mode := .running } := by simp [State.continueKeyWait, hk]

theorem State.continueKeyWait_of_no_key {s : State} (hk : s.key = none) :
    s.continueKeyWait = { s with req := .awaitKey } := by simp [State.continueKeyWait, hk]

theorem State.Inv.continueKeyWait {s : State} (hs : s.Inv) (hm : s.mode = .awaitKey) : s.continueKeyWait.Inv := by
  cases hk : s.key with
  | some k =>
    rw [State.continueKeyWait_of_key hk]
    exact hs.of_running (by simp [hm]) hs.memCanonical hs.stackLegal rfl rfl rfl
  | none =>
    rw [State.continueKeyWait_of_no_key hk]
    refine hs.of_onlyChanges fun f hf => ?_
    cases f <;> simp_all [State.sameField, State.readByte, freeFields]

theorem State.Inv.execUndef {s : State} (hs : s.Inv) (hm : s.mode = .running) (w : Word) : (execUndef w s).Inv :=
  hs.of_running (by simp [hm]) hs.memCanonical hs.stackLegal hm rfl rfl

/-- A fetched instruction keeps the invariant. -/
theorem exec_keeps_inv {i : Instr} {s t : State} (hs : s.Inv) (hm : s.mode = .running) (hf : s.fetchable = true)
    (hd : decode s.fetchWord = .instr i) (h : exec i s = .next t) : t.Inv := by
  have hnh : s.mode ≠ .halted := by simp [hm]
  rcases exec_cases h with ⟨hmode, hcause, haddr, -⟩ | ⟨x, rfl, -, rfl⟩ | ⟨-, -, -, rfl⟩ | ⟨-, -, rfl⟩ | ⟨-, -, rfl⟩
  · exact hs.of_running hnh (exec_keeps_memory_canonical hs.memCanonical h) (exec_keeps_stackLegal hs.stackLegal hf h)
      (hmode.trans hm) hcause haddr
  · exact hs.beginWait hnh hf hd
  · exact hs.enterHalt (by nofun) _
  · exact hs.enterHalt (by nofun) _
  · exact hs.enterHalt (by nofun) _

/-- Every step keeps the invariant. -/
theorem step_keeps_inv {s t : State} (hs : s.Inv) (h : step s = .next t) : t.Inv := by
  cases stepsTo_of_step h with
  | tick => exact hs.tick
  | reset => exact hs.resetEvent
  | haltedStep => exact hs.begin _ _
  | keyWait _ hm => exact (hs.begin _ _).continueKeyWait (by simpa using hm)
  | fetchFault => exact (hs.begin _ _).enterHalt (by nofun) _
  | executed _ hm hf hd hx => exact exec_keeps_inv (hs.begin _ _) (by simpa using hm) (by simpa using hf) (by simpa using hd) hx
  | undefinedWord _ hm => exact (hs.begin _ _).execUndef (by simpa using hm) _

/-! ### What the fault registers say while halted (R181, R190, R191) -/

/-- The report of a halt reads the fault registers, `pc`, `I`, `SP` and memory only. -/
theorem State.HaltReported.of_onlyChanges {s t : State} (hs : s.HaltReported)
    (h : s.OnlyChanges t [.v, .stack, .dt, .st, .mode, .kreg, .fb, .key, .rand, .req, .warn, .events, .draws]) :
    t.HaltReported := by
  have hmem : t.mem = s.mem := (h .mem (by decide)).1
  have hsp : t.sp = s.sp := h .sp (by decide)
  have hcause : t.fcause = s.fcause := h .fcause (by decide)
  have haddr : t.faddr = s.faddr := h .faddr (by decide)
  have hpc : t.pc = s.pc := h .pc (by decide)
  have hi : t.i = s.i := h .i (by decide)
  unfold State.HaltReported
  rw [hcause, State.fetchable_congr hpc, State.fetchWord_congr hmem hpc, haddr, hpc, hi, hsp]
  exact hs

theorem State.haltReported_of_no_cause {s : State} (h : s.fcause = .none) : s.HaltReported := by
  unfold State.HaltReported
  rw [h]
  trivial

/-- A fault taken where its condition holds is reported as it is. -/
theorem State.haltReported_of_faultCondition {s : State} {c : Cause} (hc : s.faultCondition c) :
    (s.enterHalt c (s.faultAddr c)).HaltReported := by
  have haddr : (BitVec.ofNat 17 (s.faultAddr c)).toNat = s.faultAddr c := toNat_faddr (s.faultAddr_lt c)
  cases c with
  | none => exact hc.elim
  | fetchOob => exact ⟨s.not_fetchable_iff.mpr hc, haddr⟩
  | dataOob => exact ⟨s.fetchable_iff.mpr hc.1, haddr, hc.2⟩
  | stackOverflow => exact ⟨s.fetchable_iff.mpr hc.1, haddr, hc.2⟩
  | stackUnderflow => exact ⟨s.fetchable_iff.mpr hc.1, haddr, hc.2⟩

theorem State.faultCondition_begin {s : State} {c : Cause} (hc : s.faultCondition c) (k : Option Nibble) (r : Byte) :
    (s.takeEvent.beginStep k r).faultCondition c := by
  cases c with
  | none => exact hc.elim
  | _ => simpa [State.faultCondition] using hc

theorem State.faultAddr_begin (s : State) (c : Cause) (k : Option Nibble) (r : Byte) :
    (s.takeEvent.beginStep k r).faultAddr c = s.faultAddr c := by
  cases c <;> simp [State.faultAddr]

/-- Every step keeps the report: a step in RUNNING mode takes a fault where its condition holds, a step in AWAIT_KEY mode finds
no cause on record, and a step in HALTED mode touches nothing the report reads, or is RESET. -/
theorem step_keeps_haltReported {s t : State} (hs : s.Inv) (hr : s.HaltReported) (h : step s = .next t) : t.HaltReported := by
  have no_cause : s.mode ≠ .halted → s.fcause = .none := fun hm => not_not.mp (mt hs.causeWhileHalted.mpr hm)
  have running {k : Option Nibble} {r : Byte} (he : s.nextEvent = .step k r) (hm : s.mode = .running) : t.HaltReported := by
    rcases step_fault_cases he hm h with ⟨hcause, -⟩ | ⟨c, hc, rfl⟩
    · exact State.haltReported_of_no_cause (hcause.trans (no_cause (by simp [hm])))
    · rw [← s.faultAddr_begin c k r]
      exact State.haltReported_of_faultCondition (State.faultCondition_begin hc k r)
  cases stepsTo_of_step h with
  | tick => exact hr.of_onlyChanges (s.tick_onlyChanges.mono (by decide))
  | reset => exact State.haltReported_of_no_cause rfl
  | haltedStep => exact hr.of_onlyChanges ((s.onlyChanges_begin _ _).mono (by decide))
  | keyWait _ hm => exact State.haltReported_of_no_cause (by simpa using no_cause (by simp [hm]))
  | fetchFault he hm => exact running he hm
  | executed he hm => exact running he hm
  | undefinedWord he hm => exact running he hm

end Sys2Proof.Machine

open Sys2Proof Sys2Proof.Machine

/-- Settles O24: nothing is open, recorded or awaited at reset. -/
theorem resetMeetsTheInvariant : Obligations.ResetMeetsTheInvariant := by
  unfold Obligations.ResetMeetsTheInvariant
  exact ⟨State.reset_inv, State.haltReported_of_no_cause rfl⟩

/-- Settles O25: the depth is at most 16, so there is a next state, and each way a step can go keeps the invariant. -/
theorem everyStepKeepsTheInvariant : Obligations.EveryStepKeepsTheInvariant := by
  unfold Obligations.EveryStepKeepsTheInvariant
  intro s hs
  obtain ⟨t, ht⟩ := step_exists_next hs.depthLegal
  exact ⟨t, ht, step_keeps_inv hs ht⟩

/-- Settles O26: a fault is taken where its condition holds, and what the report reads stays until RESET. -/
theorem everyStepKeepsTheHaltReport : Obligations.EveryStepKeepsTheHaltReport := by
  unfold Obligations.EveryStepKeepsTheHaltReport
  exact fun _ _ => step_keeps_haltReported

/-- Settles O10: each cause is on record exactly where its condition held, and the address is the cause's own. -/
theorem faultCausesTable : Obligations.FaultCausesTable := by
  unfold Obligations.FaultCausesTable
  refine ⟨fun s key rand he hm hcause haddr hsp => ?_, rfl, rfl, rfl, rfl, rfl⟩
  obtain ⟨t, ht⟩ := step_exists_next hsp
  have iff_of {c : Cause} (hc : c ≠ .none) : t.fcause = c ↔ s.faultCondition c := step_fcause_iff he hm hcause ht hc
  have registers : (t.mode = .halted ↔ t.fcause ≠ .none) ∧ t.faddr.toNat = s.faultAddr t.fcause := by
    rcases step_fault_cases he hm ht with ⟨hc, ha, hmode⟩ | ⟨c, hc, rfl⟩
    · rw [hcause] at hc
      rw [haddr] at ha
      simp [hc, ha, hmode, State.faultAddr]
    · have hne : c ≠ .none := by rintro rfl; exact hc
      simp [hne, toNat_faddr (s.faultAddr_lt c)]
  refine ⟨t, ht, registers.1, iff_of nofun, iff_of nofun, iff_of nofun, iff_of nofun, registers.2.trans ?_⟩
  cases t.fcause <;> rfl
end

section
/-! PROOFS. Whole steps (10_state.md R31, R38, R41, 20_memory.md R75, 44_timer_key.md R171, 60_exceptions.md R191, R205, R213,
70_reset_and_hazards.md R222): which step changes `MODE` and how, what each shows on its ports, and three sequences of steps: a
program that jumps to itself, a store over the next word, a key wait. -/

namespace Sys2Proof.Machine

/-! ### A step in HALTED mode (R191) -/

/-- All that a step in HALTED mode can do: RESET leaves, anything else stays, with the fault registers as they are. -/
theorem step_of_halted_cases {s t : State} (hm : s.mode = .halted) (h : step s = .next t) :
    (s.nextEvent = .reset ∧ t.mode = .running) ∨ (t.mode = .halted ∧ t.fcause = s.fcause ∧ t.faddr = s.faddr) := by
  cases stepsTo_of_step h with
  | reset he => exact .inl ⟨he, rfl⟩
  | tick => exact .inr (by simp [hm])
  | haltedStep => exact .inr (by simp [hm])
  | keyWait _ hm' | fetchFault _ hm' | executed _ hm' | undefinedWord _ hm' => cases hm.symm.trans hm'

theorem State.faultOut_congr {s t : State} (hm : t.mode = s.mode) (hc : t.fcause = s.fcause) (ha : t.faddr = s.faddr) :
    t.faultOut = s.faultOut := by
  simp only [State.faultOut, hm, hc, ha]

/-! ### How a key wait begins and ends (R171, R205) -/

/-- A step that begins a wait is a STEP with no key of a fetched `Fx0A`, whose register is then the awaited one. -/
theorem step_begins_wait {s t : State} (hm : s.mode = .running) (ht : t.mode = .awaitKey) (h : step s = .next t) :
    ∃ r, s.nextEvent = .step none r ∧ s.fetchable = true ∧ decode s.fetchWord = .instr (.ldVxK t.kreg) := by
  cases stepsTo_of_step h with
  | tick => simp [hm] at ht
  | reset => cases ht
  | haltedStep _ hm' | keyWait _ hm' => cases hm.symm.trans hm'
  | fetchFault => cases ht
  | undefinedWord => simp [hm] at ht
  | executed he _ hf hd hx =>
    rcases exec_cases hx with ⟨hmode, -⟩ | ⟨x, rfl, hk, rfl⟩ | ⟨-, -, -, rfl⟩ | ⟨-, -, rfl⟩ | ⟨-, -, rfl⟩
    · simp [hmode, hm] at ht
    · obtain rfl : _ = none := hk
      exact ⟨_, he, hf, hd⟩
    all_goals cases ht

/-- A step that ends a wait is RESET or a STEP with a key, and leads to RUNNING. -/
theorem step_ends_wait {s t : State} (hm : s.mode = .awaitKey) (ht : t.mode ≠ .awaitKey) (h : step s = .next t) :
    t.mode = .running ∧ (s.nextEvent = .reset ∨ ∃ k r, s.nextEvent = .step (some k) r) := by
  cases stepsTo_of_step h with
  | tick => exact absurd (by simpa using hm) ht
  | reset he => exact ⟨rfl, .inl he⟩
  | haltedStep _ hm' | fetchFault _ hm' | executed _ hm' | undefinedWord _ hm' => cases hm.symm.trans hm'
  | @keyWait k r he =>
    cases k with
    | some k => exact ⟨rfl, .inr ⟨k, r, he⟩⟩
    | none => exact absurd (by simpa [State.continueKeyWait] using hm) ht

/-! ### The ports after a STEP (R38) -/

/-- What an instruction can do to REQ and `MODE`: `00E0` and a completed `Dxyn` make their requests, a wait that begins makes
its own, a fault clears REQ, and every other effect leaves it. -/
inductive ReqEffect (s t : State) : Instr → Prop
  | clearScreen (hreq : t.req = .clearScreen) (hm : t.mode = s.mode) : ReqEffect s t .cls
  | draw (x y : Reg) (n : Nibble) (hreq : t.req = .draw) (hm : t.mode = s.mode) : ReqEffect s t (.drw x y n)
  | awaitKey {i : Instr} (hcls : i ≠ .cls) (hreq : t.req = .awaitKey) (hm : t.mode = .awaitKey) : ReqEffect s t i
  | halt {i : Instr} (hcls : i ≠ .cls) (hreq : t.req = .none) (hm : t.mode = .halted) : ReqEffect s t i
  | kept {i : Instr} (hcls : i ≠ .cls) (hdrw : ∀ x y n, i ≠ .drw x y n) (hreq : t.req = s.req) (hm : t.mode = s.mode) :
    ReqEffect s t i

theorem exec_reqEffect {i : Instr} {s t : State} (h : exec i s = .next t) : ReqEffect s t i := by
  cases i
  case cls => cases h; exact .clearScreen rfl rfl
  case drw x y n =>
    rcases checkRange_next h with rfl | ⟨-, -, rfl⟩
    · exact .draw x y n rfl rfl
    · exact .halt nofun rfl rfl
  case ldVxK x =>
    cases hk : s.key with
    | some k => cases (exec_ldVxK_of_key x hk).symm.trans h; exact .kept nofun nofun rfl rfl
    | none => cases (exec_ldVxK_of_no_key x hk).symm.trans h; exact .awaitKey nofun rfl rfl
  case ret =>
    rcases exec_ret_next h with rfl | ⟨w, rfl⟩
    · exact .halt nofun rfl rfl
    · exact .kept nofun nofun rfl rfl
  case call =>
    rcases exec_call_next h with rfl | ⟨hsp, rfl⟩
    · exact .halt nofun rfl rfl
    · exact .kept nofun nofun rfl rfl
  case ldB | stRegs | ldRegs =>
    rcases checkRange_next h with rfl | ⟨-, -, rfl⟩
    · exact .kept nofun nofun rfl rfl
    · exact .halt nofun rfl rfl
  all_goals (cases h; exact .kept nofun nofun rfl rfl)

/-- No instruction asserts WARN. -/
theorem exec_keeps_no_warn {i : Instr} {s t : State} (h : exec i s = .next t) (hs : s.warn = none) : t.warn = none := by
  rcases exec_cases h with ⟨-, -, -, -, -, -, -, -, hw⟩ | ⟨x, -, -, rfl⟩ | ⟨-, -, -, rfl⟩ | ⟨-, -, rfl⟩ | ⟨-, -, rfl⟩
  · exact hw.trans hs
  · exact hs
  all_goals rfl

/-- REQ after a STEP that ran an instruction, from RUNNING mode with no request. -/
theorem exec_req {i : Instr} {s t : State} (h : exec i s = .next t) (hs : s.req = .none) (hm : s.mode = .running) :
    (t.req = .awaitKey ↔ t.mode = .awaitKey) ∧ (t.req = .clearScreen ↔ i = .cls)
      ∧ (t.req = .draw ↔ t.mode = .running ∧ ∃ x y n, i = .drw x y n) := by
  cases exec_reqEffect h with
  | clearScreen hreq hm' => simp [hreq, hm', hm]
  | draw x y n hreq hm' => simp [hreq, hm', hm]
  | awaitKey hcls hreq hm' => simp [hreq, hm', hcls]
  | halt hcls hreq hm' => simp [hreq, hm', hcls]
  | kept hcls hdrw hreq hm' => simp [hreq, hm', hs, hm, hcls, hdrw]

/-- A STEP in AWAIT_KEY mode requests a key exactly where it goes on waiting (the spec's D16). -/
theorem State.continueKeyWait_req {s : State} (hs : s.req = .none) (hm : s.mode = .awaitKey) :
    (s.continueKeyWait.req = .awaitKey ↔ s.continueKeyWait.mode = .awaitKey)
      ∧ s.continueKeyWait.req ≠ .clearScreen ∧ s.continueKeyWait.req ≠ .draw ∧ s.continueKeyWait.warn = s.warn := by
  cases hk : s.key with
  | some k => rw [State.continueKeyWait_of_key hk]; simp [hs]
  | none => rw [State.continueKeyWait_of_no_key hk]; simp [hm]

/-! ### A store over the next word (R75) -/

/-- Where the block begins at the next place of fetch, its first two bytes are the word fetched there. -/
theorem State.fetchWord_storeBytes {s : State} {bs : List Byte} (hw : Memory.wf s.mem = true)
    (hr : s.effAddr bs.length ≤ Config.memSize) (hlen : 1 < bs.length) (hpc : s.nextPc.toNat = s.effAddr 0) :
    (s.storeBytes bs).fetchWord = wordOfBytes (bs[0]'(by omega)) bs[1] := by
  have hbyte := State.readByte_storeBytes_effAddr hw hr
  have hpc' : (s.storeBytes bs).pc.toNat = s.effAddr 0 := hpc
  rw [State.fetchWord, hpc', ← hbyte 0 (by omega), ← hbyte 1 hlen]
  rfl

/-- A `Fx55` with `I` at the next place of fetch: `V[0]` and `V[1]` are the word fetched next. -/
theorem exec_stRegs_over_next_word {s : State} {x : Reg} (hw : Memory.wf s.mem = true) (hx : 1 ≤ x.toNat)
    (hI : s.i.toNat = s.pc.toNat + 2) (hrange : s.i.toNat + x.toNat < Config.memSize) :
    ∃ t, exec (.stRegs x) s = .next t ∧ t.mode = s.mode ∧ t.events = s.events ∧ t.pc.toNat = s.pc.toNat + 2
      ∧ t.fetchable = true ∧ t.fetchWord = wordOfBytes (s.getV 0x0#4) (s.getV 0x1#4) := by
  have hlen := s.length_regsThrough x
  have hbound : s.i.toNat + x.toNat < 4096 := hrange
  have hpc : s.nextPc.toNat = s.i.toNat := by rw [State.nextPc_toNat]; omega
  have hr : s.effAddr (s.regsThrough x).length ≤ Config.memSize := by rw [hlen]; exact hrange
  have hv0 := s.getElem_regsThrough x 0x0#4 (by rw [hlen]; exact Nat.succ_pos _)
  have hv1 := s.getElem_regsThrough x 0x1#4 (by rw [hlen]; exact Nat.lt_succ_of_le hx)
  refine ⟨_, (exec_stRegs x s).trans (checkRange_of_last_lt hrange), rfl, rfl, hpc.trans hI, ?_, ?_⟩
  · refine (State.fetchable_iff _).mpr ?_
    change s.nextPc.toNat < 4095
    omega
  · rw [← hv0, ← hv1]
    exact State.fetchWord_storeBytes hw hr (by omega) hpc

/-! ### The key wait (R171) -/

theorem byteOfKey_toNat (k : Nibble) : (byteOfKey k).toNat = k.toNat := BitVec.toNat_setWidth_of_le (by decide)

/-- A key completes the wait as `Fx0A` itself would have done: a plain write of its code. -/
theorem step_of_awaited_key {s : State} {k : Nibble} {r : Byte} (he : s.nextEvent = .step (some k) r)
    (hm : s.mode = .awaitKey) :
    step s = .next { (s.takeEvent.beginStep (some k) r).writePlain s.kreg (byteOfKey k) with mode := .running } := by
  rw [step_of_awaitKey he hm, State.continueKeyWait_of_key rfl, State.beginStep_kreg, State.takeEvent_kreg]

theorem State.completedWait_onlyChanges (s : State) (k : Option Nibble) (r : Byte) (x : Reg) (b : Byte) :
    s.OnlyChanges { (s.takeEvent.beginStep k r).writePlain x b with mode := .running } ([.v, .pc, .mode] ++ ports) := by
  intro f hf
  cases f <;> simp_all [State.sameField, State.readByte, ports]

theorem step_of_awaited_no_key {s : State} {r : Byte} (he : s.nextEvent = .step none r) (hm : s.mode = .awaitKey) :
    step s = .next { s.takeEvent.beginStep none r with req := .awaitKey } := by
  rw [step_of_awaitKey he hm, State.continueKeyWait_of_no_key rfl]

theorem State.continuedWait_onlyChanges (s : State) (r : Byte) :
    s.OnlyChanges { s.takeEvent.beginStep none r with req := .awaitKey } ports := by
  intro f hf
  cases f <;> simp_all [State.sameField, State.readByte, ports]

theorem State.pending_of_awaitKey {s t : State} (hm : t.mode = .awaitKey) (hk : t.kreg = s.kreg) : t.pending = some s.kreg := by
  simp [State.pending, hm, hk]

end Sys2Proof.Machine

open Sys2Proof Sys2Proof.Machine

/-- Settles O14: mode by mode, and in RUNNING mode by what the fetch gives. -/
theorem stepOutputs : Obligations.StepOutputs := by
  unfold Obligations.StepOutputs
  intro s t key rand he h
  cases hm : s.mode with
  | halted =>
    cases (step_of_halted he hm).symm.trans h
    simp [hm]
  | awaitKey =>
    cases (step_of_awaitKey he hm).symm.trans h
    obtain ⟨hawait, hcls, hdrw, hwarn⟩ :=
      State.continueKeyWait_req (s := s.takeEvent.beginStep key rand) rfl (by simpa using hm)
    exact ⟨hawait, by simp [hcls], by simp [hdrw], by simp [hwarn]⟩
  | running =>
    rcases step_of_running he hm with ⟨hf, hs⟩ | ⟨hf, i, hd, hs⟩ | ⟨hf, hd, hs⟩
    · cases hs.symm.trans h
      simp [hf]
    · have hx := hs.symm.trans h
      obtain ⟨hawait, hcls, hdrw⟩ := exec_req hx rfl (by simpa using hm)
      refine ⟨hawait, by simpa [hf, hd] using hcls, by simpa [hf, hd] using hdrw, ?_⟩
      simp [exec_keeps_no_warn hx rfl, hd]
    · cases hs.symm.trans h
      refine ⟨by simp [hm], by simp [hd], by simp [hd], fun w => ?_⟩
      simp [hf, hd, eq_comm]

/-- Settles O12: by what a step in HALTED mode can do. -/
theorem haltedIsTerminal : Obligations.HaltedIsTerminal := by
  unfold Obligations.HaltedIsTerminal
  refine fun s hm => ⟨fun key rand he => ⟨_, step_of_halted he hm, rfl, rfl, s.onlyChanges_begin key rand⟩,
    fun t h ht => ?_, fun t h ht => ?_⟩
  · rcases step_of_halted_cases hm h with ⟨he, -⟩ | ⟨ht', -⟩
    · exact he
    · exact absurd ht' ht
  · rcases step_of_halted_cases hm h with ⟨-, ht'⟩ | ⟨-, hc, ha⟩
    · cases ht.symm.trans ht'
    · exact State.faultOut_congr (ht.trans hm.symm) hc ha

/-- Settles O13: by the steps that begin a wait, end one, and leave HALTED. -/
theorem modeTransitions : Obligations.ModeTransitions := by
  unfold Obligations.ModeTransitions
  refine fun s t h => ⟨fun hm ht => step_begins_wait hm ht h, fun hm ht => step_ends_wait hm ht h, fun hm ht => ?_⟩
  rcases step_of_halted_cases hm h with ⟨-, ht'⟩ | ⟨ht', -⟩ <;> cases ht.symm.trans ht'

/-- Settles O6: the two bytes at `pc` are the word fetched. -/
theorem stepRunsTheDecodedInstruction : Obligations.StepRunsTheDecodedInstruction := by
  unfold Obligations.StepRunsTheDecodedInstruction
  intro s i key rand he hm hf hd _
  have hword : decode s.fetchWord = .instr i := congrArg Prod.fst hd
  exact ⟨step_of_instr he hm hf hword, s.onlyChanges_begin key rand, rfl, rfl, rfl, rfl⟩

/-- Settles O15: the STEP writes to `pc` what it holds, so the state is the one whose inputs are sampled. -/
theorem selfJumpChangesNothing : Obligations.SelfJumpChangesNothing := by
  unfold Obligations.SelfJumpChangesNothing
  rintro s key rand ⟨hm, hf, nnn, hd, hpc⟩ he
  have hstep : step s = .next (s.takeEvent.beginStep key rand) := by
    have hself : addrOfNnn nnn = (s.takeEvent.beginStep key rand).pc := by simpa using hpc
    rw [step_of_instr he hm hf hd]
    change Host.Outcome.next ((s.takeEvent.beginStep key rand).setPc (addrOfNnn nnn)) = _
    rw [hself]
    rfl
  exact ⟨_, hstep, s.onlyChanges_begin key rand, by simpa using hm, by simpa using hf, nnn, by simpa using hd, by simpa using hpc⟩

/-- Settles O16: the store is read back byte by byte at the next place of fetch. -/
theorem storedCodeIsFetched : Obligations.StoredCodeIsFetched := by
  unfold Obligations.StoredCodeIsFetched
  intro s x key key' rand rand' es i hw hevents hm hf hd hx hI hrange hcode
  obtain ⟨t, ht, hmode, hev, hpc, hf', hword⟩ := exec_stRegs_over_next_word (s := s.takeEvent.beginStep key rand)
    (by simpa using hw) hx (by simpa using hI) (by simpa using hrange)
  have hm' : t.mode = .running := hmode.trans (by simpa using hm)
  have hnext : t.events = .step key' rand' :: es := by simp [hev, State.takeEvent_events, hevents]
  have hd' : decode t.fetchWord = .instr i := by simpa [hword] using hcode
  exact ⟨t, (step_of_instr (State.nextEvent_cons s _ _ hevents) hm hf hd).trans ht, hm', hpc.trans (by simp),
    step_of_instr (State.nextEvent_cons t _ _ hnext) hm' hf' hd'⟩

/-- Settles O53: with a key, at once or later, `Fx0A` is a plain write of its code; with none the wait begins or goes on. -/
theorem keyWaitCompletesOnAKey : Obligations.KeyWaitCompletesOnAKey := by
  unfold Obligations.KeyWaitCompletesOnAKey
  refine ⟨fun x s => ⟨decode_encode_ldVxK x, fun k hk => ?_, fun hk => ?_⟩, fun s hm => ⟨fun k rand he => ?_, fun rand he => ?_,
    fun he => ?_⟩⟩
  · exact ⟨_, exec_ldVxK_of_key x hk, by rw [State.getV_writePlain_self, byteOfKey_toNat], s.writePlain_frame x _⟩
  · exact ⟨_, exec_ldVxK_of_no_key x hk, rfl, rfl, rfl, rfl, s.beginWait_onlyChanges x⟩
  · obtain ⟨hother, hpc, -⟩ := (s.takeEvent.beginStep (some k) rand).writePlain_frame s.kreg (byteOfKey k)
    refine ⟨_, step_of_awaited_key he hm, ?_, fun j hj => (hother j hj).trans (by simp), hpc.trans (by simp), rfl, rfl, rfl,
      s.completedWait_onlyChanges _ _ _ _⟩
    exact (congrArg BitVec.toNat (State.getV_writePlain_self _ _ _)).trans (byteOfKey_toNat k)
  · exact ⟨_, step_of_awaited_no_key he hm, rfl, State.pending_of_awaitKey (by simpa using hm) (by simp),
      s.continuedWait_onlyChanges rand⟩
  · exact ⟨_, step_of_tick he, by simpa using hm, State.pending_of_awaitKey (by simpa using hm) (by simp),
      by simp [countDown_toNat], by simp [countDown_toNat]⟩
end

section
/-! PROOFS. The drawing unit (43_display.md R161 to R164): its sequential loop toggles exactly the pixels that some set sprite bit
lands on, because no two sprite bits land on one pixel, and collides exactly where one of them was lit. -/

namespace Sys2Proof.Machine

/-! ### No pixel is visited twice (R163) -/

/-- Eight columns that follow each other are different modulo `W`. -/
theorem column_injective {ox j j' : Nat} (hj : j < 8) (hj' : j' < 8)
    (h : (ox + j) % Config.fbWidth = (ox + j') % Config.fbWidth) : j = j' := by
  simp only [Config.fbWidth] at h
  omega

/-- Up to fifteen rows that follow each other are different modulo `H`. -/
theorem row_injective {oy i i' : Nat} (hi : i < 15) (hi' : i' < 15)
    (h : (oy + i) % Config.fbHeight = (oy + i') % Config.fbHeight) : i = i' := by
  simp only [Config.fbHeight] at h
  omega

/-- Two toggles that exclude each other are one toggle by either. -/
theorem xor_decide_of_disjoint {p q : Prop} [Decidable p] [Decidable q] (b : Bool) (h : p → ¬ q) :
    (b ^^ decide p ^^ decide q) = (b ^^ decide (p ∨ q)) := by
  by_cases hp : p
  · simp [hp, h hp]
  · simp [hp]

/-! ### One row of the sprite -/

section
variable (row : Byte) (y x count : Nat) (r : Fin Config.fbHeight) (c : Fin Config.fbWidth)

/-- Bit `j` of a row's byte, drawn at (`x`, `y`), is set and lands on pixel (`r`, `c`). -/
@[reducible] def BitHits (j : Nat) : Prop := (r = rowOf y ∧ c = colOf (x + j)) ∧ spriteBit row j = true

/-- Some bit among the first `count` does. -/
@[reducible] def RowHits : Prop := ∃ j, j < count ∧ BitHits row y x r c j

theorem rowHits_succ : RowHits row y x (count + 1) r c ↔ RowHits row y x count r c ∨ BitHits row y x r c count :=
  Nat.exists_lt_succ_right

end

/-- No pixel is one that two bits of a row land on. -/
theorem not_bitHits_of_rowHits {row : Byte} {y x count : Nat} {r : Fin Config.fbHeight} {c : Fin Config.fbWidth}
    (hc : count < 8) (h : RowHits row y x count r c) : ¬ BitHits row y x r c count := by
  obtain ⟨j, hj, ⟨-, hcol⟩, -⟩ := h
  rintro ⟨⟨-, hcol'⟩, -⟩
  exact hj.ne (column_injective (hj.trans hc) hc (congrArg Fin.val (hcol.symm.trans hcol')))

/-- One row toggles the pixels its set bits land on. -/
theorem drawBits_pixel (row : Byte) (y x : Nat) (d : DrawState) {count : Nat} (hc : count ≤ 8) (r : Fin Config.fbHeight)
    (c : Fin Config.fbWidth) :
    (drawBits row y x d count).fb.pixel r c = (d.fb.pixel r c ^^ decide (RowHits row y x count r c)) := by
  induction count with
  | zero => rw [drawBits, decide_eq_false (by simp), Bool.xor_false]
  | succ count ih =>
    have hbit : (decide (r = rowOf y ∧ c = colOf (x + count)) && spriteBit row count) = decide (BitHits row y x r c count) := by
      simp
    rw [drawBits, DrawState.plot_pixel, ih (by omega), hbit, xor_decide_of_disjoint _ (not_bitHits_of_rowHits hc),
      decide_eq_decide.mpr (rowHits_succ row y x count r c)]

/-- One row collides where one of its set bits landed on a lit pixel. -/
theorem drawBits_collision (row : Byte) (y x : Nat) (d : DrawState) {count : Nat} (hc : count ≤ 8) :
    (drawBits row y x d count).collision = true
      ↔ d.collision = true ∨ ∃ r c, RowHits row y x count r c ∧ d.fb.pixel r c = true := by
  induction count with
  | zero => simp [drawBits]
  | succ count ih =>
    have hkept : ∀ r c, BitHits row y x r c count → (drawBits row y x d count).fb.pixel r c = d.fb.pixel r c := by
      intro r c hbit
      have hnot : ¬ RowHits row y x count r c := fun hrow => not_bitHits_of_rowHits hc hrow hbit
      rw [drawBits_pixel row y x d (by omega) r c, decide_eq_false hnot, Bool.xor_false]
    have hnew : ((drawBits row y x d count).fb.pixel (rowOf y) (colOf (x + count)) && spriteBit row count) = true
        ↔ ∃ r c, BitHits row y x r c count ∧ d.fb.pixel r c = true := by
      constructor
      · intro h
        obtain ⟨hlit, hset⟩ := Bool.and_eq_true_iff.mp h
        have hbit : BitHits row y x (rowOf y) (colOf (x + count)) count := ⟨⟨rfl, rfl⟩, hset⟩
        exact ⟨_, _, hbit, hkept _ _ hbit ▸ hlit⟩
      · rintro ⟨r, c, hbit, hlit⟩
        rw [← hkept r c hbit] at hlit
        obtain ⟨⟨rfl, rfl⟩, hset⟩ := hbit
        exact Bool.and_eq_true_iff.mpr ⟨hlit, hset⟩
    rw [drawBits, DrawState.plot_collision, Bool.or_eq_true, ih (by omega), hnew]
    simp only [rowHits_succ, or_and_right, exists_or, or_assoc]

/-! ### The whole sprite -/

/-- Some set bit of the first `n` rows at `a`, drawn at (`x`, `y`), lands on pixel (`r`, `c`). -/
@[reducible] def SpriteHits (m : Memory) (a y x n : Nat) (r : Fin Config.fbHeight) (c : Fin Config.fbWidth) : Prop :=
  ∃ i, i < n ∧ RowHits (Memory.read m (a + i)) (y + i) x 8 r c

theorem spriteHits_succ (m : Memory) (a y x n : Nat) (r : Fin Config.fbHeight) (c : Fin Config.fbWidth) :
    SpriteHits m a y x (n + 1) r c ↔ SpriteHits m a y x n r c ∨ RowHits (Memory.read m (a + n)) (y + n) x 8 r c :=
  Nat.exists_lt_succ_right

/-- No pixel is one that two rows of a sprite land on. -/
theorem not_rowHits_of_spriteHits {m : Memory} {a y x n : Nat} {r : Fin Config.fbHeight} {c : Fin Config.fbWidth}
    (hn : n < 15) (h : SpriteHits m a y x n r c) : ¬ RowHits (Memory.read m (a + n)) (y + n) x 8 r c := by
  obtain ⟨i, hi, -, -, ⟨hrow, -⟩, -⟩ := h
  rintro ⟨-, -, ⟨hrow', -⟩, -⟩
  exact hi.ne (row_injective (hi.trans hn) hn (congrArg Fin.val (hrow.symm.trans hrow')))

/-- A draw toggles the pixels the sprite's set bits land on. -/
theorem drawRows_pixel (m : Memory) (a y x : Nat) (d : DrawState) {n : Nat} (hn : n ≤ 15) (r : Fin Config.fbHeight)
    (c : Fin Config.fbWidth) :
    (drawRows m a y x d n).fb.pixel r c = (d.fb.pixel r c ^^ decide (SpriteHits m a y x n r c)) := by
  induction n with
  | zero => rw [drawRows, decide_eq_false (by simp), Bool.xor_false]
  | succ n ih =>
    rw [drawRows, drawBits_pixel _ _ _ _ le_rfl, ih (by omega), xor_decide_of_disjoint _ (not_rowHits_of_spriteHits hn),
      decide_eq_decide.mpr (spriteHits_succ m a y x n r c)]

/-- A draw collides where one of the sprite's set bits landed on a lit pixel. -/
theorem drawRows_collision (m : Memory) (a y x : Nat) (d : DrawState) {n : Nat} (hn : n ≤ 15) :
    (drawRows m a y x d n).collision = true
      ↔ d.collision = true ∨ ∃ r c, SpriteHits m a y x n r c ∧ d.fb.pixel r c = true := by
  induction n with
  | zero => simp [drawRows]
  | succ n ih =>
    have hkept : ∀ r c, RowHits (Memory.read m (a + n)) (y + n) x 8 r c →
        (drawRows m a y x d n).fb.pixel r c = d.fb.pixel r c := by
      intro r c hrow
      have hnot : ¬ SpriteHits m a y x n r c := fun hsprite => not_rowHits_of_spriteHits hn hsprite hrow
      rw [drawRows_pixel m a y x d (by omega) r c, decide_eq_false hnot, Bool.xor_false]
    have hnew : (∃ r c, RowHits (Memory.read m (a + n)) (y + n) x 8 r c ∧ (drawRows m a y x d n).fb.pixel r c = true)
        ↔ ∃ r c, RowHits (Memory.read m (a + n)) (y + n) x 8 r c ∧ d.fb.pixel r c = true :=
      exists₂_congr fun r c => and_congr_right fun hrow => by rw [hkept r c hrow]
    rw [drawRows, drawBits_collision _ _ _ _ le_rfl, ih (by omega), hnew]
    simp only [spriteHits_succ, or_and_right, exists_or, or_assoc]

/-! ### A draw that is in range -/

/-- The pixels of `Toggles` are those the sprite lands on. -/
theorem State.toggles_iff (s : State) (x y : Reg) (n : Nibble) (r : Fin Config.fbHeight) (c : Fin Config.fbWidth) :
    s.Toggles x y n r c ↔ SpriteHits s.mem (s.effAddr 0) (s.getV y).toNat (s.getV x).toNat n.toNat r c := by
  constructor
  · rintro ⟨i, j, hi, hj, hset, hrow, hcol⟩
    exact ⟨i, hi, j, hj, ⟨Fin.ext hrow.symm, Fin.ext hcol.symm⟩, hset⟩
  · rintro ⟨i, hi, j, hj, ⟨rfl, rfl⟩, hset⟩
    exact ⟨i, j, hi, hj, hset, rfl, rfl⟩

/-- The state a draw in range leads to. -/
def State.afterDraw (s : State) (x y : Reg) (n : Nibble) : State :=
  s.drawn (drawSprite s.fb s.mem (s.effAddr 0) (s.getV y).toNat (s.getV x).toNat n.toNat)

theorem exec_drw_of_inRange {s : State} (x y : Reg) {n : Nibble} (h : n = 0x0#4 ∨ s.i.toNat + n.toNat ≤ Config.memSize) :
    exec (.drw x y n) s = .next (s.afterDraw x y n) :=
  (exec_drw x y n s).trans (checkRange_of_inRange (h.imp_left (congrArg BitVec.toNat)))

/-- The number of rows of a sprite is four bits. -/
theorem rows_le (n : Nibble) : n.toNat ≤ 15 := Nat.le_of_lt_succ n.isLt

section
variable {s : State} {x y : Reg} {n : Nibble} {r : Fin Config.fbHeight} {c : Fin Config.fbWidth}

theorem State.afterDraw_readPort_of_toggles (h : s.Toggles x y n r c) :
    (s.afterDraw x y n).readPort r c = !s.readPort r c := by
  rw [State.toggles_iff] at h
  refine (drawRows_pixel _ _ _ _ _ (rows_le n) r c).trans ?_
  rw [decide_eq_true h, Bool.xor_true]
  rfl

theorem State.afterDraw_readPort_of_not_toggles (h : ¬ s.Toggles x y n r c) :
    (s.afterDraw x y n).readPort r c = s.readPort r c := by
  rw [State.toggles_iff] at h
  refine (drawRows_pixel _ _ _ _ _ (rows_le n) r c).trans ?_
  rw [decide_eq_false h, Bool.xor_false]
  rfl

/-- `VF` after a draw is the flag of a collision: a toggled pixel that was lit. -/
theorem State.afterDraw_vf : ∃ collision : Bool, (s.afterDraw x y n).getV 0xF#4 = flagByte collision
    ∧ (collision = true ↔ ∃ r c, s.Toggles x y n r c ∧ s.readPort r c = true) := by
  refine ⟨_, (s.getV_drawn _ _).trans (if_pos rfl), (drawRows_collision _ _ _ _ _ (rows_le n)).trans ?_⟩
  simp only [Bool.false_eq_true, false_or, State.toggles_iff]
  rfl

end

/-- What a draw leaves: every register but `VF`, and every field but the framebuffer, `VF`, REQ and `pc`. -/
theorem State.afterDraw_frame (s : State) (x y : Reg) (n : Nibble) :
    (∀ j, j ≠ 0xF#4 → (s.afterDraw x y n).getV j = s.getV j) ∧ (s.afterDraw x y n).req = .draw
      ∧ (s.afterDraw x y n).pc.toNat = (s.pc.toNat + 2) % 65536 ∧ s.OnlyChanges (s.afterDraw x y n) [.v, .fb, .req, .pc] :=
  ⟨fun j hj => (s.getV_drawn _ j).trans (if_neg hj), rfl, s.nextPc_toNat, s.drawn_onlyChanges _⟩

/-! ### The same sprite at the same location (R164) -/

/-- What a draw toggles depends on `I`, memory and the two coordinates alone. -/
theorem State.toggles_congr {s t : State} {x y : Reg} (n : Nibble) (hi : t.i = s.i) (hmem : t.mem = s.mem)
    (hx : t.getV x = s.getV x) (hy : t.getV y = s.getV y) (r : Fin Config.fbHeight) (c : Fin Config.fbWidth) :
    t.Toggles x y n r c ↔ s.Toggles x y n r c := by
  simp only [State.Toggles, State.effAddr, State.readByte, hi, hmem, hx, hy]

theorem State.readPort_congr {s t : State} (h : t.fb = s.fb) (r : Fin Config.fbHeight) (c : Fin Config.fbWidth) :
    t.readPort r c = s.readPort r c := by
  rw [State.readPort, State.readPort, h]

theorem flagByte_eq_one_iff (b : Bool) : flagByte b = 0x01#8 ↔ b = true := by cases b <;> decide

section
variable {s t : State} {x y : Reg} {n : Nibble} (hfb : t.fb = (s.afterDraw x y n).fb)
  (htoggles : ∀ r c, t.Toggles x y n r c ↔ s.Toggles x y n r c)
include hfb htoggles

/-- A second draw that toggles the same pixels restores them. -/
theorem State.afterDraw_restores (r : Fin Config.fbHeight) (c : Fin Config.fbWidth) :
    (t.afterDraw x y n).readPort r c = s.readPort r c := by
  by_cases h : s.Toggles x y n r c
  · rw [State.afterDraw_readPort_of_toggles ((htoggles r c).mpr h), State.readPort_congr hfb,
      State.afterDraw_readPort_of_toggles h, Bool.not_not]
  · rw [State.afterDraw_readPort_of_not_toggles (mt (htoggles r c).mp h), State.readPort_congr hfb,
      State.afterDraw_readPort_of_not_toggles h]

/-- A second draw that toggles the same pixels collides where the first set one. -/
theorem State.afterDraw_collides_iff : (t.afterDraw x y n).getV 0xF#4 = 0x01#8
    ↔ ∃ r c, s.readPort r c = false ∧ (s.afterDraw x y n).readPort r c = true := by
  obtain ⟨collision, hvf, hiff⟩ := State.afterDraw_vf (s := t) (x := x) (y := y) (n := n)
  rw [hvf, flagByte_eq_one_iff, hiff]
  refine exists₂_congr fun r c => ?_
  rw [htoggles, State.readPort_congr hfb]
  by_cases h : s.Toggles x y n r c
  · simp [h, State.afterDraw_readPort_of_toggles h]
  · simp [h, State.afterDraw_readPort_of_not_toggles h]

end

/-! ### One row at the last column of the last row (R164 b) -/

theorem State.toggles_corner_iff {s : State} {x y : Reg} (hx : (s.getV x).toNat = Config.fbWidth - 1)
    (hy : (s.getV y).toNat = Config.fbHeight - 1) (r : Fin Config.fbHeight) (c : Fin Config.fbWidth) :
    s.Toggles x y 0x1#4 r c ↔ r.val = Config.fbHeight - 1
      ∧ ∃ j, j < 8 ∧ (s.readByte s.i.toNat).getLsbD (7 - j) = true ∧ (Config.fbWidth - 1 + j) % Config.fbWidth = c.val := by
  constructor
  · rintro ⟨i, j, hi, hj, hset, hrow, hcol⟩
    obtain rfl : i = 0 := Nat.lt_one_iff.mp hi
    rw [hy] at hrow
    rw [hx] at hcol
    exact ⟨hrow.symm, j, hj, hset, hcol⟩
  · rintro ⟨hrow, j, hj, hset, hcol⟩
    exact ⟨0, j, by decide, hj, hset, by rw [hy, hrow]; rfl, by rw [hx, hcol]⟩

end Sys2Proof.Machine

open Sys2Proof Sys2Proof.Machine

/-- Settles O49: the loop is the parallel toggle, by induction on its rows and bits, each of which lands on a pixel of its own. -/
theorem drawTogglesTheSpritesPixels : Obligations.DrawTogglesTheSpritesPixels := by
  unfold Obligations.DrawTogglesTheSpritesPixels
  refine ⟨fun _ _ _ => column_injective, fun _ _ _ => row_injective, fun x y n s hr => ⟨decode_encode_drw x y n, ?_⟩⟩
  obtain ⟨collision, hvf, hiff⟩ := State.afterDraw_vf (s := s) (x := x) (y := y) (n := n)
  refine ⟨_, exec_drw_of_inRange x y hr, fun r c => State.afterDraw_readPort_of_toggles,
    fun r c => State.afterDraw_readPort_of_not_toggles, fun h => ?_, fun h => ?_, s.afterDraw_frame x y n⟩
  · rw [hvf, hiff.mpr h]; rfl
  · rw [hvf, Bool.eq_false_iff.mpr (mt hiff.mp h)]; rfl

/-- Settles O51: (a) two equal toggles cancel; (b) of the eight columns from 63 on, 0 is the one bit 6 lands on. -/
theorem drawTwiceRestoresAndWraps : Obligations.DrawTwiceRestoresAndWraps := by
  unfold Obligations.DrawTwiceRestoresAndWraps
  refine ⟨fun x y n s t hr h t' hfb hi hmem hx hy => ?_, fun x y s hr hx hy => ?_⟩
  · cases (exec_drw_of_inRange x y hr).symm.trans h
    have htoggles := State.toggles_congr n hi hmem hx hy
    have hr' : n = 0x0#4 ∨ t'.i.toNat + n.toNat ≤ Config.memSize := by rwa [hi]
    exact ⟨_, exec_drw_of_inRange x y hr', State.afterDraw_restores hfb htoggles, State.afterDraw_collides_iff hfb htoggles⟩
  · refine ⟨_, exec_drw_of_inRange x y (.inr hr), fun r c hne => ?_, ?_⟩
    · have htoggle := not_imp_comm.mp State.afterDraw_readPort_of_not_toggles hne
      obtain ⟨hrow, j, hj, -, hcol⟩ := (State.toggles_corner_iff hx hy r c).mp htoggle
      refine ⟨hrow, ?_⟩
      simp only [Config.fbWidth] at hcol ⊢
      omega
    · have hiff : s.Toggles x y 0x1#4 31 0 ↔ (s.readByte s.i.toNat).getLsbD 6 = true := by
        rw [State.toggles_corner_iff hx hy]
        constructor
        · rintro ⟨-, j, hj, hset, hcol⟩
          have hcol0 : (63 + j) % 64 = 0 := hcol
          obtain rfl : j = 1 := by omega
          exact hset
        · exact fun hset => ⟨rfl, 1, by decide, hset, rfl⟩
      by_cases h : s.Toggles x y 0x1#4 31 0
      · rw [State.afterDraw_readPort_of_toggles h, hiff.mp h, Bool.xor_true]
      · rw [State.afterDraw_readPort_of_not_toggles h, Bool.eq_false_iff.mpr (mt hiff.mpr h), Bool.xor_false]
end
